-- ==== Sys2Proof/Word.lean ====
section
/-! DEFINITION. The word and byte types of the core and the operand size (00_scope.md R6, R9, R11). -/

namespace Sys2Proof

/-- A 16-bit word (R6). Bit 0 is the least significant bit (R9). -/
abbrev Word := BitVec 16

/-- An 8-bit byte (R6). -/
abbrev Byte := BitVec 8

/-- The operand size `sz` of an operation: 1 for a byte form, 2 for a word form (R11). -/
inductive Size where
  | byte
  | word
deriving DecidableEq, Repr

/-- The number of bytes of an operand: the spec's `sz` itself (R11). -/
def Size.bytes : Size → Nat
  | .byte => 1
  | .word => 2

/-- The number of bits of an operand. -/
def Size.bits : Size → Nat
  | .byte => 8
  | .word => 16

end Sys2Proof
end

