-- ==== Sys2Proof/Syntax.lean ====
section
/-! DEFINITION. The instruction set as syntax: addressing modes, registers, operand specifiers and one constructor for
each of the 80 rows of spec/opcode_table.json (30_encoding.md R77 to R96). An instruction is its opcode word; index
words are fetched while it executes (R77, R90). -/

namespace Sys2Proof

/-- The eight addressing modes, in the order of their 3-bit codes 0 to 7 (20_memory.md R59 to R66, R71). -/
inductive Mode where
  | register
  | deferred
  | autoInc
  | autoIncDeferred
  | autoDec
  | autoDecDeferred
  | index
  | indexDeferred
deriving DecidableEq, Repr

/-- The eight live registers x[0] to x[7]; `sp` is x[6] and `pc` is x[7] (10_state.md R19, R21; 00_scope.md R12). -/
inductive Reg where
  | r0
  | r1
  | r2
  | r3
  | r4
  | r5
  | sp
  | pc
deriving DecidableEq, Repr

/-- An operand specifier: a mode and a register number (30_encoding.md R78). -/
structure Operand where
  mode : Mode
  reg  : Reg
deriving DecidableEq, Repr

/-- The named operations of 30_encoding.md R96 with their fields (R79 to R86). -/
inductive Instr where
  -- Two-operand instructions, format DOUBLE (30_encoding.md R79; 41_double_operand.md)
  /-- MOV (R107) -/
  | mov (src dst : Operand)
  /-- MOVB (R108) -/
  | movb (src dst : Operand)
  /-- CMP (R109) -/
  | cmp (src dst : Operand)
  /-- CMPB (R110) -/
  | cmpb (src dst : Operand)
  /-- BIT (R111) -/
  | bit (src dst : Operand)
  /-- BITB (R112) -/
  | bitb (src dst : Operand)
  /-- BIC (R113) -/
  | bic (src dst : Operand)
  /-- BICB (R114) -/
  | bicb (src dst : Operand)
  /-- BIS (R115) -/
  | bis (src dst : Operand)
  /-- BISB (R116) -/
  | bisb (src dst : Operand)
  /-- ADD (R117) -/
  | add (src dst : Operand)
  /-- SUB (R118) -/
  | sub (src dst : Operand)
  -- One-operand instructions, format SINGLE (R81; 42_single_operand.md)
  /-- CLR (R120) -/
  | clr (dst : Operand)
  /-- CLRB (R121) -/
  | clrb (dst : Operand)
  /-- COM (R122) -/
  | com (dst : Operand)
  /-- COMB (R123) -/
  | comb (dst : Operand)
  /-- INC (R124) -/
  | inc (dst : Operand)
  /-- INCB (R125) -/
  | incb (dst : Operand)
  /-- DEC (R126) -/
  | dec (dst : Operand)
  /-- DECB (R127) -/
  | decb (dst : Operand)
  /-- TST (R128) -/
  | tst (dst : Operand)
  /-- TSTB (R129) -/
  | tstb (dst : Operand)
  -- One-operand stubs (42_single_operand.md)
  /-- NEG (stub, R130) -/
  | neg (dst : Operand)
  /-- NEGB (stub, R131) -/
  | negb (dst : Operand)
  /-- ADC (stub, R132) -/
  | adc (dst : Operand)
  /-- ADCB (stub, R133) -/
  | adcb (dst : Operand)
  /-- SBC (stub, R134) -/
  | sbc (dst : Operand)
  /-- SBCB (stub, R135) -/
  | sbcb (dst : Operand)
  /-- ROR (stub, R136) -/
  | ror (dst : Operand)
  /-- RORB (stub, R137) -/
  | rorb (dst : Operand)
  /-- ROL (stub, R138) -/
  | rol (dst : Operand)
  /-- ROLB (stub, R139) -/
  | rolb (dst : Operand)
  /-- ASR (stub, R140) -/
  | asr (dst : Operand)
  /-- ASRB (stub, R141) -/
  | asrb (dst : Operand)
  /-- ASL (stub, R142) -/
  | asl (dst : Operand)
  /-- ASLB (stub, R143) -/
  | aslb (dst : Operand)
  /-- SWAB (stub, R144) -/
  | swab (dst : Operand)
  /-- SXT (stub, R145) -/
  | sxt (dst : Operand)
  /-- MARK (stub, R146) -/
  | mark (count : BitVec 6)
  /-- MFPI (stub, R147) -/
  | mfpi (src : Operand)
  /-- MTPI (stub, R148) -/
  | mtpi (dst : Operand)
  /-- MTPS (stub, R149) -/
  | mtps (src : Operand)
  /-- MFPD (stub, R150) -/
  | mfpd (src : Operand)
  /-- MTPD (stub, R151) -/
  | mtpd (dst : Operand)
  /-- MFPS (stub, R152) -/
  | mfps (dst : Operand)
  -- Branches, format BRANCH (R82; 43_branches.md)
  /-- BR (R155) -/
  | br (off : BitVec 8)
  /-- BNE (R156) -/
  | bne (off : BitVec 8)
  /-- BEQ (R157) -/
  | beq (off : BitVec 8)
  /-- BGE (R158) -/
  | bge (off : BitVec 8)
  /-- BLT (R159) -/
  | blt (off : BitVec 8)
  /-- BGT (R160) -/
  | bgt (off : BitVec 8)
  /-- BLE (R161) -/
  | ble (off : BitVec 8)
  /-- BPL (R162) -/
  | bpl (off : BitVec 8)
  /-- BMI (R163) -/
  | bmi (off : BitVec 8)
  /-- BHI (R164) -/
  | bhi (off : BitVec 8)
  /-- BLOS (R165) -/
  | blos (off : BitVec 8)
  /-- BVC (R166) -/
  | bvc (off : BitVec 8)
  /-- BVS (R167) -/
  | bvs (off : BitVec 8)
  /-- BCC (R168) -/
  | bcc (off : BitVec 8)
  /-- BCS (R169) -/
  | bcs (off : BitVec 8)
  -- Subroutine call and return (44_subroutine.md)
  /-- JSR (R170) -/
  | jsr (r : Reg) (dst : Operand)
  /-- RTS (R171) -/
  | rts (r : Reg)
  /-- JMP (stub, R173) -/
  | jmp (dst : Operand)
  -- Register-operand arithmetic, format RMR, and its stubs (R80; 45_register_ops.md)
  /-- ASH (R175) -/
  | ash (r : Reg) (src : Operand)
  /-- MUL (R176) -/
  | mul (r : Reg) (src : Operand)
  /-- DIV (stub, R177) -/
  | div (r : Reg) (src : Operand)
  /-- ASHC (stub, R178) -/
  | ashc (r : Reg) (src : Operand)
  /-- XOR (stub, R179) -/
  | xor (r : Reg) (dst : Operand)
  /-- SOB (stub, R180) -/
  | sob (r : Reg) (count : BitVec 6)
  -- Condition-code, system and zero-operand instructions (46_system.md)
  /-- CCODE (R181) -/
  | ccode (set n z v c : Bool)
  /-- HALT (R182) -/
  | halt
  /-- WAIT (R183) -/
  | wait
  /-- RTI (R184) -/
  | rti
  /-- RTT (R185) -/
  | rtt
  /-- BPT (stub, R186) -/
  | bpt
  /-- IOT (stub, R187) -/
  | iot
  /-- RESET (stub, R188) -/
  | reset
  /-- SPL (stub, R189) -/
  | spl (level : BitVec 3)
  /-- EMT (stub, R190) -/
  | emt (code : BitVec 8)
  /-- TRAP (stub, R191) -/
  | trap (code : BitVec 8)
deriving DecidableEq, Repr

/-- The 34 stubs of 30_encoding.md R98: named decoder cases with no semantics. -/
def Instr.isStub : Instr → Bool
  | .neg _ | .negb _ | .adc _ | .adcb _ | .sbc _ | .sbcb _ | .ror _ | .rorb _ | .rol _ | .rolb _ | .asr _
  | .asrb _ | .asl _ | .aslb _ | .swab _ | .sxt _ | .mark _ | .mfpi _ | .mtpi _ | .mtps _ | .mfpd _ | .mtpd _
  | .mfps _ | .jmp _ | .div _ _ | .ashc _ _ | .xor _ _ | .sob _ _ | .bpt | .iot | .reset | .spl _ | .emt _
  | .trap _ => true
  | .mov _ _ | .movb _ _ | .cmp _ _ | .cmpb _ _ | .bit _ _ | .bitb _ _ | .bic _ _ | .bicb _ _ | .bis _ _
  | .bisb _ _ | .add _ _ | .sub _ _ | .clr _ | .clrb _ | .com _ | .comb _ | .inc _ | .incb _ | .dec _ | .decb _
  | .tst _ | .tstb _ | .br _ | .bne _ | .beq _ | .bge _ | .blt _ | .bgt _ | .ble _ | .bpl _ | .bmi _ | .bhi _
  | .blos _ | .bvc _ | .bvs _ | .bcc _ | .bcs _ | .jsr _ _ | .rts _ | .ash _ _ | .mul _ _ | .ccode _ _ _ _ _
  | .halt | .wait | .rti | .rtt => false

/-! The mnemonic aliases of 30_encoding.md R102: other names of encodings already in the table. -/

/-- BHIS is BCC (R102). -/
abbrev Instr.bhis (off : BitVec 8) : Instr := .bcc off
/-- BLO is BCS (R102). -/
abbrev Instr.blo (off : BitVec 8) : Instr := .bcs off
/-- NOP is 0o000240 (R102; R100). -/
abbrev Instr.nop : Instr := .ccode false false false false false
/-- CLC is 0o000241 (R102). -/
abbrev Instr.clc : Instr := .ccode false false false false true
/-- CLV is 0o000242 (R102). -/
abbrev Instr.clv : Instr := .ccode false false false true false
/-- CLZ is 0o000244 (R102). -/
abbrev Instr.clz : Instr := .ccode false false true false false
/-- CLN is 0o000250 (R102). -/
abbrev Instr.cln : Instr := .ccode false true false false false
/-- CCC is 0o000257 (R102). -/
abbrev Instr.ccc : Instr := .ccode false true true true true
/-- SEC is 0o000261 (R102). -/
abbrev Instr.sec : Instr := .ccode true false false false true
/-- SEV is 0o000262 (R102). -/
abbrev Instr.sev : Instr := .ccode true false false true false
/-- SEZ is 0o000264 (R102). -/
abbrev Instr.sez : Instr := .ccode true false true false false
/-- SEN is 0o000270 (R102). -/
abbrev Instr.sen : Instr := .ccode true true false false false
/-- SCC is 0o000277 (R102). -/
abbrev Instr.scc : Instr := .ccode true true true true true

end Sys2Proof
end

