-- ==== Sys2Proof/WellFormed.lean ====
section
/-! DEFINITION. Well-formed instructions. The field types of `Instr` already hold every field to its width, so the one
check left is the one the spec makes on an operand form: 30_encoding.md R99. An ill-formed instruction still decodes,
and executing it raises ILLEGAL_INSTRUCTION (44_subroutine.md R170). -/

namespace Sys2Proof

/-- R99: every combination of mode and register is legal in every format, but for a JSR with a mode-0 target. -/
def Instr.wellFormed : Instr → Bool
  | .jsr _ dst => dst.mode != .register
  | .mov _ _ | .movb _ _ | .cmp _ _ | .cmpb _ _ | .bit _ _ | .bitb _ _ | .bic _ _ | .bicb _ _ | .bis _ _
  | .bisb _ _ | .add _ _ | .sub _ _ | .clr _ | .clrb _ | .com _ | .comb _ | .inc _ | .incb _ | .dec _ | .decb _
  | .tst _ | .tstb _ | .neg _ | .negb _ | .adc _ | .adcb _ | .sbc _ | .sbcb _ | .ror _ | .rorb _ | .rol _
  | .rolb _ | .asr _ | .asrb _ | .asl _ | .aslb _ | .swab _ | .sxt _ | .mark _ | .mfpi _ | .mtpi _ | .mtps _
  | .mfpd _ | .mtpd _ | .mfps _ | .br _ | .bne _ | .beq _ | .bge _ | .blt _ | .bgt _ | .ble _ | .bpl _ | .bmi _
  | .bhi _ | .blos _ | .bvc _ | .bvs _ | .bcc _ | .bcs _ | .rts _ | .jmp _ | .ash _ _ | .mul _ _ | .div _ _
  | .ashc _ _ | .xor _ _ | .sob _ _ | .ccode _ _ _ _ _ | .halt | .wait | .rti | .rtt | .bpt | .iot | .reset
  | .spl _ | .emt _ | .trap _ => true

end Sys2Proof
end

