-- ==== Sys2Proof/Decode.lean ====
section
/-! DEFINITION. The decoder of 30_encoding.md R92, total on every word and on any bytes and rejecting by name; the
encoder, written from the opcode map R96 and the formats R79 to R86; and the host's table-word entry. -/

namespace Sys2Proof

/-- Why the decoder gives no instruction. -/
inductive DecodeError where
  /-- UNKNOWN: the word matches no row of the opcode map (R97). Executing it raises ILLEGAL_INSTRUCTION
  (46_system.md R192). -/
  | unknownOpcode (w : Word)
  /-- Fewer than the two bytes of an opcode word were given. -/
  | truncated
deriving DecidableEq, Repr

/-- `w[hi:lo]`, as an unsigned number (00_scope.md R9). -/
def field (w : Word) (hi lo : Nat) : Nat :=
  w.toNat / 2 ^ lo % 2 ^ (hi + 1 - lo)

/-- The mode with a 3-bit code (20_memory.md R71). -/
def Mode.ofBits : Nat → Mode
  | 0 => .register
  | 1 => .deferred
  | 2 => .autoInc
  | 3 => .autoIncDeferred
  | 4 => .autoDec
  | 5 => .autoDecDeferred
  | 6 => .index
  | _ => .indexDeferred

/-- The 3-bit code of a mode (20_memory.md R71). -/
def Mode.bits : Mode → Nat
  | .register => 0
  | .deferred => 1
  | .autoInc => 2
  | .autoIncDeferred => 3
  | .autoDec => 4
  | .autoDecDeferred => 5
  | .index => 6
  | .indexDeferred => 7

/-- The register with a 3-bit number (10_state.md R19). -/
def Reg.ofBits : Nat → Reg
  | 0 => .r0
  | 1 => .r1
  | 2 => .r2
  | 3 => .r3
  | 4 => .r4
  | 5 => .r5
  | 6 => .sp
  | _ => .pc

/-- The number of a register (10_state.md R19). -/
def Reg.bits : Reg → Nat
  | .r0 => 0
  | .r1 => 1
  | .r2 => 2
  | .r3 => 3
  | .r4 => 4
  | .r5 => 5
  | .sp => 6
  | .pc => 7

/-- A 6-bit operand specifier: the mode in its high 3 bits, the register in its low 3 bits (R78, R87). -/
def Operand.ofBits (n : Nat) : Operand :=
  { mode := Mode.ofBits (n / 8 % 8), reg := Reg.ofBits (n % 8) }

/-- The 6 bits of an operand specifier (R78). -/
def Operand.bits (o : Operand) : Nat :=
  o.mode.bits * 8 + o.reg.bits

/-- SS, bits 11:6 (R78). -/
def ssField (w : Word) : Operand := Operand.ofBits (field w 11 6)

/-- DD, bits 5:0 (R78); also the operand specifier of the formats RMR and SINGLE (R80, R81). -/
def ddField (w : Word) : Operand := Operand.ofBits (field w 5 0)

/-- The register field R of format RMR, bits 8:6 (R80). -/
def rField (w : Word) : Reg := Reg.ofBits (field w 8 6)

/-- Layer 1: the two-operand class, selected by op[15:12] (R92, R79, R95). -/
def decodeDouble (w : Word) : Option Instr :=
  match field w 15 12 with
  | 1 => some (.mov (ssField w) (ddField w))
  | 2 => some (.cmp (ssField w) (ddField w))
  | 3 => some (.bit (ssField w) (ddField w))
  | 4 => some (.bic (ssField w) (ddField w))
  | 5 => some (.bis (ssField w) (ddField w))
  | 6 => some (.add (ssField w) (ddField w))
  | 9 => some (.movb (ssField w) (ddField w))
  | 10 => some (.cmpb (ssField w) (ddField w))
  | 11 => some (.bitb (ssField w) (ddField w))
  | 12 => some (.bicb (ssField w) (ddField w))
  | 13 => some (.bisb (ssField w) (ddField w))
  | 14 => some (.sub (ssField w) (ddField w))
  | _ => none

/-- Layer 2: the register and operand class, selected by op[15:9] (R92, R80, R86). -/
def decodeRmr (w : Word) : Option Instr :=
  match field w 15 9 with
  | 0o004 => some (.jsr (rField w) (ddField w))
  | 0o070 => some (.mul (rField w) (ddField w))
  | 0o071 => some (.div (rField w) (ddField w))
  | 0o072 => some (.ash (rField w) (ddField w))
  | 0o073 => some (.ashc (rField w) (ddField w))
  | 0o074 => some (.xor (rField w) (ddField w))
  | 0o077 => some (.sob (rField w) (BitVec.ofNat 6 (field w 5 0)))
  | _ => none

/-- Layer 3a: the single-operand class, selected by op[15:6] (R92, R81, R86). -/
def decodeSingle (w : Word) : Option Instr :=
  match field w 15 6 with
  | 0o0001 => some (.jmp (ddField w))
  | 0o0003 => some (.swab (ddField w))
  | 0o0050 => some (.clr (ddField w))
  | 0o0051 => some (.com (ddField w))
  | 0o0052 => some (.inc (ddField w))
  | 0o0053 => some (.dec (ddField w))
  | 0o0054 => some (.neg (ddField w))
  | 0o0055 => some (.adc (ddField w))
  | 0o0056 => some (.sbc (ddField w))
  | 0o0057 => some (.tst (ddField w))
  | 0o0060 => some (.ror (ddField w))
  | 0o0061 => some (.rol (ddField w))
  | 0o0062 => some (.asr (ddField w))
  | 0o0063 => some (.asl (ddField w))
  | 0o0064 => some (.mark (BitVec.ofNat 6 (field w 5 0)))
  | 0o0065 => some (.mfpi (ddField w))
  | 0o0066 => some (.mtpi (ddField w))
  | 0o0067 => some (.sxt (ddField w))
  | 0o1050 => some (.clrb (ddField w))
  | 0o1051 => some (.comb (ddField w))
  | 0o1052 => some (.incb (ddField w))
  | 0o1053 => some (.decb (ddField w))
  | 0o1054 => some (.negb (ddField w))
  | 0o1055 => some (.adcb (ddField w))
  | 0o1056 => some (.sbcb (ddField w))
  | 0o1057 => some (.tstb (ddField w))
  | 0o1060 => some (.rorb (ddField w))
  | 0o1061 => some (.rolb (ddField w))
  | 0o1062 => some (.asrb (ddField w))
  | 0o1063 => some (.aslb (ddField w))
  | 0o1064 => some (.mtps (ddField w))
  | 0o1065 => some (.mfpd (ddField w))
  | 0o1066 => some (.mtpd (ddField w))
  | 0o1067 => some (.mfps (ddField w))
  | _ => none

/-- Layer 3b: the branch class, selected by op[15:8] (R92, R82, R86). -/
def decodeBranch (w : Word) : Option Instr :=
  match field w 15 8 with
  | 0o001 => some (.br (BitVec.ofNat 8 (field w 7 0)))
  | 0o002 => some (.bne (BitVec.ofNat 8 (field w 7 0)))
  | 0o003 => some (.beq (BitVec.ofNat 8 (field w 7 0)))
  | 0o004 => some (.bge (BitVec.ofNat 8 (field w 7 0)))
  | 0o005 => some (.blt (BitVec.ofNat 8 (field w 7 0)))
  | 0o006 => some (.bgt (BitVec.ofNat 8 (field w 7 0)))
  | 0o007 => some (.ble (BitVec.ofNat 8 (field w 7 0)))
  | 0o200 => some (.bpl (BitVec.ofNat 8 (field w 7 0)))
  | 0o201 => some (.bmi (BitVec.ofNat 8 (field w 7 0)))
  | 0o202 => some (.bhi (BitVec.ofNat 8 (field w 7 0)))
  | 0o203 => some (.blos (BitVec.ofNat 8 (field w 7 0)))
  | 0o204 => some (.bvc (BitVec.ofNat 8 (field w 7 0)))
  | 0o205 => some (.bvs (BitVec.ofNat 8 (field w 7 0)))
  | 0o206 => some (.bcc (BitVec.ofNat 8 (field w 7 0)))
  | 0o207 => some (.bcs (BitVec.ofNat 8 (field w 7 0)))
  | 0o210 => some (.emt (BitVec.ofNat 8 (field w 7 0)))
  | 0o211 => some (.trap (BitVec.ofNat 8 (field w 7 0)))
  | _ => none

/-- Layer 4: the short-field groups RTS, SPL and CCODE (R92, R83, R84). -/
def decodeShort (w : Word) : Option Instr :=
  if field w 15 3 = 0o00020 then some (.rts (Reg.ofBits (field w 2 0)))
  else if field w 15 3 = 0o00023 then some (.spl (BitVec.ofNat 3 (field w 2 0)))
  else if field w 15 5 = 0o0005 then
    some (.ccode (w.getLsbD 4) (w.getLsbD 3) (w.getLsbD 2) (w.getLsbD 1) (w.getLsbD 0))
  else none

/-- Layer 5: the exact matches (R92, R85). -/
def decodeZero (w : Word) : Option Instr :=
  match field w 15 0 with
  | 0o0 => some .halt
  | 0o1 => some .wait
  | 0o2 => some .rti
  | 0o3 => some .bpt
  | 0o4 => some .iot
  | 0o5 => some .reset
  | 0o6 => some .rtt
  | _ => none

/-- `Decode(op)` (R92): the first layer that matches gives the operation. It reads only the opcode word (R91, R94). -/
def decode (w : Word) : Except DecodeError Instr :=
  match decodeDouble w with
  | some i => .ok i
  | none =>
  match decodeRmr w with
  | some i => .ok i
  | none =>
  match decodeSingle w with
  | some i => .ok i
  | none =>
  match decodeBranch w with
  | some i => .ok i
  | none =>
  match decodeShort w with
  | some i => .ok i
  | none =>
  match decodeZero w with
  | some i => .ok i
  | none => .error (.unknownOpcode w)

/-- A word from its bytes, the low byte first (20_memory.md R47). -/
def wordOfBytes (lo hi : Byte) : Word := hi ++ lo

/-- Decode the instruction at the head of a list of bytes, and give the bytes after its opcode word. -/
def decodeBytes : List Byte → Except DecodeError (Instr × List Byte)
  | lo :: hi :: rest =>
    match decode (wordOfBytes lo hi) with
    | .ok i => .ok (i, rest)
    | .error e => .error e
  | [_] => .error .truncated
  | [] => .error .truncated

/-! ## The encoder -/

/-- The fixed bits of an instruction's opcode word: the row's `match` in the opcode map (R96). -/
def Instr.opcode : Instr → Nat
  | .mov _ _ => 0o010000
  | .movb _ _ => 0o110000
  | .cmp _ _ => 0o020000
  | .cmpb _ _ => 0o120000
  | .bit _ _ => 0o030000
  | .bitb _ _ => 0o130000
  | .bic _ _ => 0o040000
  | .bicb _ _ => 0o140000
  | .bis _ _ => 0o050000
  | .bisb _ _ => 0o150000
  | .add _ _ => 0o060000
  | .sub _ _ => 0o160000
  | .clr _ => 0o005000
  | .clrb _ => 0o105000
  | .com _ => 0o005100
  | .comb _ => 0o105100
  | .inc _ => 0o005200
  | .incb _ => 0o105200
  | .dec _ => 0o005300
  | .decb _ => 0o105300
  | .tst _ => 0o005700
  | .tstb _ => 0o105700
  | .neg _ => 0o005400
  | .negb _ => 0o105400
  | .adc _ => 0o005500
  | .adcb _ => 0o105500
  | .sbc _ => 0o005600
  | .sbcb _ => 0o105600
  | .ror _ => 0o006000
  | .rorb _ => 0o106000
  | .rol _ => 0o006100
  | .rolb _ => 0o106100
  | .asr _ => 0o006200
  | .asrb _ => 0o106200
  | .asl _ => 0o006300
  | .aslb _ => 0o106300
  | .swab _ => 0o000300
  | .sxt _ => 0o006700
  | .mark _ => 0o006400
  | .mfpi _ => 0o006500
  | .mtpi _ => 0o006600
  | .mtps _ => 0o106400
  | .mfpd _ => 0o106500
  | .mtpd _ => 0o106600
  | .mfps _ => 0o106700
  | .br _ => 0o000400
  | .bne _ => 0o001000
  | .beq _ => 0o001400
  | .bge _ => 0o002000
  | .blt _ => 0o002400
  | .bgt _ => 0o003000
  | .ble _ => 0o003400
  | .bpl _ => 0o100000
  | .bmi _ => 0o100400
  | .bhi _ => 0o101000
  | .blos _ => 0o101400
  | .bvc _ => 0o102000
  | .bvs _ => 0o102400
  | .bcc _ => 0o103000
  | .bcs _ => 0o103400
  | .jsr _ _ => 0o004000
  | .rts _ => 0o000200
  | .jmp _ => 0o000100
  | .ash _ _ => 0o072000
  | .mul _ _ => 0o070000
  | .div _ _ => 0o071000
  | .ashc _ _ => 0o073000
  | .xor _ _ => 0o074000
  | .sob _ _ => 0o077000
  | .ccode _ _ _ _ _ => 0o000240
  | .halt => 0o000000
  | .wait => 0o000001
  | .rti => 0o000002
  | .rtt => 0o000006
  | .bpt => 0o000003
  | .iot => 0o000004
  | .reset => 0o000005
  | .spl _ => 0o000230
  | .emt _ => 0o104000
  | .trap _ => 0o104400

/-- The field bits of an instruction's opcode word, placed as its format places them (R79 to R86). -/
def Instr.operandBits : Instr → Nat
  | .mov s d | .movb s d | .cmp s d | .cmpb s d | .bit s d | .bitb s d | .bic s d | .bicb s d | .bis s d
  | .bisb s d | .add s d | .sub s d => s.bits * 64 + d.bits
  | .clr d | .clrb d | .com d | .comb d | .inc d | .incb d | .dec d | .decb d | .tst d | .tstb d | .neg d
  | .negb d | .adc d | .adcb d | .sbc d | .sbcb d | .ror d | .rorb d | .rol d | .rolb d | .asr d | .asrb d
  | .asl d | .aslb d | .swab d | .sxt d | .mfpi d | .mtpi d | .mtps d | .mfpd d | .mtpd d | .mfps d | .jmp d => d.bits
  | .jsr r d | .ash r d | .mul r d | .div r d | .ashc r d | .xor r d => r.bits * 64 + d.bits
  | .sob r n => r.bits * 64 + n.toNat
  | .mark n => n.toNat
  | .br k | .bne k | .beq k | .bge k | .blt k | .bgt k | .ble k | .bpl k | .bmi k | .bhi k | .blos k | .bvc k
  | .bvs k | .bcc k | .bcs k | .emt k | .trap k => k.toNat
  | .rts r => r.bits
  | .spl n => n.toNat
  | .ccode s n z v c => s.toNat * 16 + n.toNat * 8 + z.toNat * 4 + v.toNat * 2 + c.toNat
  | .halt | .wait | .rti | .rtt | .bpt | .iot | .reset => 0

/-- The number of values the field bits of an instruction's format take: its row's `mask` in the opcode map is
0x10000 less this number (R96). -/
def Instr.operandSpan : Instr → Nat
  | .mov _ _ | .movb _ _ | .cmp _ _ | .cmpb _ _ | .bit _ _ | .bitb _ _ | .bic _ _ | .bicb _ _ | .bis _ _
  | .bisb _ _ | .add _ _ | .sub _ _ => 0o10000
  | .jsr _ _ | .ash _ _ | .mul _ _ | .div _ _ | .ashc _ _ | .xor _ _ | .sob _ _ => 0o1000
  | .br _ | .bne _ | .beq _ | .bge _ | .blt _ | .bgt _ | .ble _ | .bpl _ | .bmi _ | .bhi _ | .blos _ | .bvc _
  | .bvs _ | .bcc _ | .bcs _ | .emt _ | .trap _ => 0o400
  | .clr _ | .clrb _ | .com _ | .comb _ | .inc _ | .incb _ | .dec _ | .decb _ | .tst _ | .tstb _ | .neg _
  | .negb _ | .adc _ | .adcb _ | .sbc _ | .sbcb _ | .ror _ | .rorb _ | .rol _ | .rolb _ | .asr _ | .asrb _
  | .asl _ | .aslb _ | .swab _ | .sxt _ | .mark _ | .mfpi _ | .mtpi _ | .mtps _ | .mfpd _ | .mtpd _ | .mfps _
  | .jmp _ => 0o100
  | .ccode _ _ _ _ _ => 0o40
  | .rts _ | .spl _ => 0o10
  | .halt | .wait | .rti | .rtt | .bpt | .iot | .reset => 1

/-- The opcode word of an instruction (R96). -/
def encode (i : Instr) : Word :=
  BitVec.ofNat 16 (i.opcode + i.operandBits)

/-! ## The host's entry -/

/-- The first `n` bytes of a number, the least significant first. -/
def bytesOf : Nat → Nat → List Byte
  | 0, _ => []
  | n + 1, w => BitVec.ofNat 8 (w % 256) :: bytesOf n (w / 256)

/-- The longest instruction: an opcode word and two index words (R77). -/
def maxInstrBytes : Nat := 6

/-- The instruction the decoder reads from an instruction whose bits are `w`, bit 0 the least significant bit of the
first word, every bit above `nbits` zero. -/
def decodeTableWord (nbits w : Nat) : Option Instr :=
  match decodeBytes (bytesOf maxInstrBytes (w % 2 ^ nbits)) with
  | .ok (i, _) => some i
  | .error _ => none

end Sys2Proof
end

