-- ==== Sys2Proof/Config.lean ====
section
/-! DEFINITION. What is fixed for one machine: the launch parameters of 00_scope.md R8, the trap kinds of
60_exceptions.md R193, the device bindings of 20_memory.md R53, and the FREE VALUES of the spec (opaque constants
with no body: no proof can see what they are). -/

namespace Sys2Proof

/-- The fault kinds of 60_exceptions.md R193: the kinds a device may return (20_memory.md R54). -/
inductive FaultKind where
  /-- A word access at an odd address. -/
  | oddAddress
  /-- An access in I/O space that no device binding contains. -/
  | nonexistentAddress
  /-- An UNKNOWN opcode, a stub, a mode-0 JSR, a privileged operation outside kernel mode. -/
  | illegalInstruction
  /-- Never raised by the block itself; a device may return it. -/
  | reservedInstruction
deriving DecidableEq, Repr

/-- The six trap kinds of 60_exceptions.md R193: the four faults and the two pseudo-traps. -/
inductive TrapKind where
  | fault (k : FaultKind)
  /-- The pseudo-trap of HALT in kernel mode. -/
  | halt
  /-- The pseudo-trap of WAIT. -/
  | wait
deriving DecidableEq, Repr

/-- Parameter `OPERAND_ORDER` (41_double_operand.md R103). -/
inductive OperandOrder where
  | srcFirst
  | resolveBothFirst
deriving DecidableEq, Repr

/-- Parameter `MUL_C_BOUND` (45_register_ops.md R176). -/
inductive MulCBound where
  | fits16
  | handbook
deriving DecidableEq, Repr

/-- The launch parameters that no instruction changes (00_scope.md R8). -/
structure Params where
  /-- `IO_BASE`, which is also `CORE_SIZE` (20_memory.md R43). A `Nat`, since it may be 0x10000. -/
  ioBase       : Nat
  operandOrder : OperandOrder
  mulCBound    : MulCBound
  /-- `TCACHE`: false is OFF, true is ON (20_memory.md R75). -/
  tcache       : Bool
deriving DecidableEq, Repr

/-- The defaults of 00_scope.md R8. -/
def Params.default : Params :=
  { ioBase := 0o160000, operandOrder := .srcFirst, mulCBound := .fits16, tcache := false }

/-- What 20_memory.md R43 asks of `IO_BASE`: an even number with 0 < IO_BASE ≤ 0x10000. -/
abbrev Params.valid (p : Params) : Prop :=
  p.ioBase % 2 = 0 ∧ 0 < p.ioBase ∧ p.ioBase ≤ 0x10000

/-- One device binding (20_memory.md R53, R54). The handler and its context are names: what the device behind
them does is outside the block. -/
structure Binding where
  base    : Nat
  length  : Nat
  handler : Nat
  context : Nat
deriving DecidableEq, Repr

/-- What a call asks of a device handler: a `Load`, or a `Store` with the bytes of its buffer in the order of
20_memory.md R47 (R51, R54). -/
inductive DeviceOp where
  | load
  | store (buf : List Byte)
deriving DecidableEq, Repr

/-- One call the block makes to a device handler (20_memory.md R54). -/
structure DeviceCall where
  handler : Nat
  context : Nat
  op      : DeviceOp
  offset  : Nat
  size    : Size
deriving DecidableEq, Repr

/-- What a device answers to a `Load`: the bytes of its buffer (a byte access reads the first only), a fault kind,
or nothing, ever (20_memory.md R54; 93_implementation_defined.md U4, U5, U6). -/
inductive LoadAnswer where
  | bytes (lo hi : Byte)
  | trap (k : FaultKind)
  | never
deriving DecidableEq, Repr, Inhabited

/-- What a device answers to a `Store` (20_memory.md R54; 93_implementation_defined.md U5, U6). -/
inductive StoreAnswer where
  | done
  | trap (k : FaultKind)
  | never
deriving DecidableEq, Repr, Inhabited

/-- FREE VALUE (assumption 5): what a device answers to a `Load`, a draw (20_memory.md R54). It may depend on every
call made before this one, the first argument, oldest first. -/
opaque Config.deviceLoad : List DeviceCall → DeviceCall → LoadAnswer

/-- FREE VALUE (assumption 5): what a device answers to a `Store` (20_memory.md R54). -/
opaque Config.deviceStore : List DeviceCall → DeviceCall → StoreAnswer

/-- FREE VALUE (assumption 6): which of the 65533 admitted values the OPEN parameter `VEC_RESERVED` has
(60_exceptions.md R196). -/
opaque Config.vecReservedIndex : Fin 65533

end Sys2Proof
end

