-- ==== Sys2Proof/Machine/State.lean ====
section
/-! DEFINITION. The state of the block (10_state.md R40, 20_memory.md) as plain data, its reset value, and the reasons
a step can stop. -/

namespace Sys2Proof.Machine

/-- Six registers R0 to R5: the live bank or the shadow bank (10_state.md R19, R22). -/
structure Bank where
  r0 : Word
  r1 : Word
  r2 : Word
  r3 : Word
  r4 : Word
  r5 : Word
deriving DecidableEq, Repr

/-- The four stored stack pointers `spslot[0..3]`, one per value of the current-mode field (10_state.md R23, R30). -/
structure SpSlots where
  kernel     : Word
  supervisor : Word
  mode2      : Word
  user       : Word
deriving DecidableEq, Repr

/-- What the trap controller holds of a pending trap (10_state.md R37). -/
structure TrapRecord where
  kind      : TrapKind
  /-- `VEC[kind]`; none for HALT and WAIT (60_exceptions.md R196, R197). -/
  vector    : Option Word
  /-- The address the instruction's opcode was fetched from. -/
  instAddr  : Word
  /-- The opcode word; none when the opcode fetch itself faulted. -/
  opcode    : Option Word
  /-- The address of the faulting access; none when the trap is no memory-access trap. -/
  faultAddr : Option Word
deriving DecidableEq, Repr

/-- The decoder's internal latch, which feeds the trap record (10_state.md R38). -/
structure Latch where
  instAddr : Word
  opcode   : Option Word
deriving DecidableEq, Repr

/-- The MODEL's bookkeeping for `TCACHE = ON` (assumption 8): the addresses whose opcode word has been executed, and
those of them stored to afterwards (20_memory.md R75). Both stay empty with `TCACHE = OFF`. -/
structure Thunks where
  bound       : List Word
  overwritten : List Word
deriving DecidableEq, Repr

/-- Core memory: (address, byte) pairs, addresses strictly rising, no zero byte listed; an unlisted address reads as
0, its reset contents (10_state.md R40, 70_reset_and_hazards.md R211). -/
abbrev Memory := List Host.Cell

/-- The complete state of the block (10_state.md R40), its internal latch (R38), its launch parameters (00_scope.md
R8), and the model's own `deviceLog` and `thunks`. -/
structure State where
  /-- x[0] to x[5] (R21, R22). -/
  live      : Bank
  /-- shadow[0] to shadow[5] (R22). -/
  shadow    : Bank
  /-- x[6], the live stack pointer (R23). -/
  sp        : Word
  /-- spslot[0] to spslot[3] (R23). -/
  spslot    : SpSlots
  /-- x[7], the program counter (R24). -/
  pc        : Word
  /-- The processor status word (R27, R28). -/
  psw       : Word
  /-- The trap controller: pending = 1 exactly when it is some record (R37, assumption 1). -/
  trap      : Option TrapRecord
  /-- The decoder's latch (R38). -/
  latch     : Latch
  /-- Core memory (20_memory.md R43, R44). -/
  core      : Memory
  /-- The device bindings, in list order (20_memory.md R53). -/
  devices   : List Binding
  /-- The MODEL's own: the calls made to devices so far, oldest first (assumption 5). -/
  deviceLog : List DeviceCall
  /-- The launch parameters (00_scope.md R8, assumption 7). -/
  params    : Params
  /-- The MODEL's own: the bookkeeping of `TCACHE = ON` (assumption 8). -/
  thunks    : Thunks
deriving DecidableEq, Repr

/-- Why the machine stops with a fault. Every trap of 60_exceptions.md R193 is a NEXT state with a trap record and is
none of these. -/
inductive Fault where
  /-- Raised by a device access whose device never answers (93_implementation_defined.md U6: "stuck"; 20_memory.md
  R55: the block waits for it without a timeout). Safe: no state follows, and the hardware reaches none either. -/
  | deviceNeverReturns
deriving DecidableEq, Repr

/-- Why the model gives no next state. -/
inductive Refusal where
  /-- Raised by exec's arm of an instruction that has no meaning yet. Safe. -/
  | notModelled (mnemonic : String)
  /-- Raised by a step, with `TCACHE = ON`, at an opcode word the program stored to after its first execution
  (20_memory.md R75: "treats the execution … as unspecified and refuses it"; U3). Safe. -/
  | staleTranslation
deriving DecidableEq, Repr

/-- Reset values of the registers: parameter `RESET_REGS` (70_reset_and_hazards.md R211). -/
structure ResetRegs where
  live   : Bank
  shadow : Bank
  sp     : Word
  spslot : SpSlots
  pc     : Word
  psw    : Word
deriving DecidableEq, Repr

/-- A bank of zeros. -/
def Bank.zero : Bank := { r0 := 0, r1 := 0, r2 := 0, r3 := 0, r4 := 0, r5 := 0 }

/-- Stack-pointer slots of zeros. -/
def SpSlots.zero : SpSlots := { kernel := 0, supervisor := 0, mode2 := 0, user := 0 }

/-- The default of `RESET_REGS`: all zero (R211). -/
def ResetRegs.zero : ResetRegs :=
  { live := Bank.zero, shadow := Bank.zero, sp := 0, spslot := SpSlots.zero, pc := 0, psw := 0 }

/-- The creation of the block's instance (70_reset_and_hazards.md R211, R218): the registers at `RESET_REGS`, nothing
pending, core memory all 0. PSW bits 10:8 take nothing (10_state.md R29). The latch and the model's own fields start
empty (assumption 2). -/
def State.create (params : Params) (devices : List Binding) (regs : ResetRegs) : State :=
  { live := regs.live, shadow := regs.shadow, sp := regs.sp, spslot := regs.spslot, pc := regs.pc,
    psw := regs.psw &&& 0o174377, trap := none, latch := { instAddr := 0, opcode := none }, core := [],
    devices := devices, deviceLog := [], params := params, thunks := { bound := [], overwritten := [] } }

/-- The reset state: every register 0, every core byte 0, no device, the default parameters (10_state.md R40;
70_reset_and_hazards.md R211; 00_scope.md R8). -/
def State.reset : State := State.create Params.default [] ResetRegs.zero

end Sys2Proof.Machine
end

