-- ==== Sys2Proof/Machine/Ops.lean ====
section
/-! DEFINITION. The named operations over registers, PSW, trap controller, memory and devices (00_scope.md R12;
10_state.md R21 to R37; 20_memory.md R50 to R56; 60_exceptions.md R196, R197). -/

namespace Sys2Proof.Machine

/-! ## Registers -/

/-- `x[i]`, the register view an instruction sees (10_state.md R21). -/
def State.x (s : State) : Reg → Word
  | .r0 => s.live.r0
  | .r1 => s.live.r1
  | .r2 => s.live.r2
  | .r3 => s.live.r3
  | .r4 => s.live.r4
  | .r5 => s.live.r5
  | .sp => s.sp
  | .pc => s.pc

/-- `x[i] <- v` (00_scope.md R12; 10_state.md R19: no register is hardwired). -/
def State.setX (s : State) (r : Reg) (v : Word) : State :=
  match r with
  | .r0 => { s with live := { s.live with r0 := v } }
  | .r1 => { s with live := { s.live with r1 := v } }
  | .r2 => { s with live := { s.live with r2 := v } }
  | .r3 => { s with live := { s.live with r3 := v } }
  | .r4 => { s with live := { s.live with r4 := v } }
  | .r5 => { s with live := { s.live with r5 := v } }
  | .sp => { s with sp := v }
  | .pc => { s with pc := v }

/-- The register pair of MUL: `x[R+1]` for an even `R` (45_register_ops.md R176). -/
def pairOf : Reg → Option Reg
  | .r0 => some .r1
  | .r2 => some .r3
  | .r4 => some .r5
  | .sp => some .pc
  | .r1 | .r3 | .r5 | .pc => none

/-! ## The processor status word -/

/-- The condition codes (10_state.md R31). -/
structure CC where
  n : Bool
  z : Bool
  v : Bool
  c : Bool
deriving DecidableEq, Repr

/-- The condition codes in PSW bits 3:0 (10_state.md R28), which is also CCODE's mask (30_encoding.md R84). -/
def CC.toWord (cc : CC) : Word :=
  BitVec.ofNat 16 (cc.n.toNat * 8 + cc.z.toNat * 4 + cc.v.toNat * 2 + cc.c.toNat)

/-- The condition codes of a PSW value (10_state.md R28). -/
def ccOf (psw : Word) : CC :=
  { n := psw.getLsbD 3, z := psw.getLsbD 2, v := psw.getLsbD 1, c := psw.getLsbD 0 }

/-- The condition codes of the PSW. -/
def State.cc (s : State) : CC := ccOf s.psw

/-- Write N, Z, V and C and no other bit of the PSW (10_state.md R32). -/
def State.setCC (s : State) (cc : CC) : State :=
  { s with psw := s.psw &&& 0o177760 ||| cc.toWord }

/-- CM, PSW bits 15:14: the current mode; 0 is kernel (10_state.md R28, R30). -/
def modeOf (psw : Word) : BitVec 2 := psw.extractLsb' 14 2

/-- RS, PSW bit 11: the register-set select (10_state.md R28). -/
def bankOf (psw : Word) : Bool := psw.getLsbD 11

/-- PM, PSW bits 13:12: the previous mode, stored with no effect (10_state.md R28). -/
def prevModeOf (psw : Word) : BitVec 2 := psw.extractLsb' 12 2

/-- PRI, PSW bits 7:5: the priority, stored with no effect (10_state.md R28, R34). -/
def priorityOf (psw : Word) : BitVec 3 := psw.extractLsb' 5 3

/-- T, PSW bit 4: the trace bit, stored with no effect (10_state.md R28, R33). -/
def traceOf (psw : Word) : Bool := psw.getLsbD 4

/-- Kernel mode: the current-mode field is 0 (10_state.md R30; 60_exceptions.md R204). -/
abbrev State.kernel (s : State) : Prop := modeOf s.psw = 0

/-- The bits a PSW holds: every write of bits 10:8 is ignored (10_state.md R29). -/
def pswMask : Word := 0o174377

/-- `spslot[m]` (10_state.md R23). -/
def SpSlots.get (q : SpSlots) (m : BitVec 2) : Word :=
  match m.toNat with
  | 0 => q.kernel
  | 1 => q.supervisor
  | 2 => q.mode2
  | _ => q.user

/-- `spslot[m] <- v` (10_state.md R23). -/
def SpSlots.set (q : SpSlots) (m : BitVec 2) (v : Word) : SpSlots :=
  match m.toNat with
  | 0 => { q with kernel := v }
  | 1 => { q with supervisor := v }
  | 2 => { q with mode2 := v }
  | _ => { q with user := v }

/-- The bank switch of `WritePSW`: live and shadow swap (10_state.md R22, R35). -/
def State.swapBanks (s : State) : State := { s with live := s.shadow, shadow := s.live }

/-- The mode switch of `WritePSW`: save the live stack pointer in the old mode's slot, load the new mode's
(10_state.md R23, R35). -/
def State.switchMode (s : State) (old new : BitVec 2) : State :=
  let slots := s.spslot.set old s.sp
  { s with spslot := slots, sp := slots.get new }

/-- `WritePSW(v)`: the whole-word write of the PSW (10_state.md R35). -/
def State.writePSW (s : State) (v : Word) : State :=
  let s1 := if bankOf v ≠ bankOf s.psw then s.swapBanks else s
  let s2 := if modeOf v ≠ modeOf s.psw then s1.switchMode (modeOf s.psw) (modeOf v) else s1
  { s2 with psw := v &&& pswMask }

/-! ## Taking a trap -/

/-- The vector of RESERVED_INSTRUCTION: the `vecReservedIndex`-th 16-bit value other than 0o004, 0o010 and 0o250
(60_exceptions.md R196; assumption 6). -/
def vecReserved : Word :=
  let i := Config.vecReservedIndex.val
  BitVec.ofNat 16 (if i < 4 then i else if i < 7 then i + 1 else if i < 0o246 then i + 2 else i + 3)

/-- `VEC[kind]` (60_exceptions.md R196). -/
def vectorOf : TrapKind → Option Word
  | .fault .oddAddress => some 0o004
  | .fault .illegalInstruction => some 0o010
  | .fault .nonexistentAddress => some 0o250
  | .fault .reservedInstruction => some vecReserved
  | .halt => none
  | .wait => none

/-- The descriptive string of a trap kind (60_exceptions.md R196). -/
def describe : TrapKind → String
  | .fault .oddAddress => "odd address"
  | .fault .illegalInstruction => "illegal instruction"
  | .fault .nonexistentAddress => "nonexistent address"
  | .fault .reservedInstruction => "reserved instruction"
  | .halt => "halt"
  | .wait => "wait"

/-- `raise K (fault_addr)`: TAKING A TRAP (60_exceptions.md R197). The record is written and nothing else changes: no
push, no vector fetch, no PSW, mode or pc change (R201), and nothing already done is undone. -/
def State.raise (s : State) (k : TrapKind) (faultAddr : Option Word) : State :=
  { s with
    trap := some
      { kind := k, vector := vectorOf k, instAddr := s.latch.instAddr, opcode := s.latch.opcode,
        faultAddr := faultAddr } }

/-- `raise ILLEGAL_INSTRUCTION` (60_exceptions.md R193): no `fault_addr`. -/
def State.raiseIllegal (s : State) : State := s.raise (.fault .illegalInstruction) none

/-! ## The result of an operation that may raise -/

/-- What an operation inside an instruction comes to: it goes on with a value, or a trap has been raised and ends the
instruction in the state it left (00_scope.md R12, R13), or a device never answers. -/
inductive Res (α : Type) where
  | ok (v : α) (s : State)
  | trapped (s : State)
  | stuck (f : Fault)
deriving DecidableEq, Repr

/-- Go on with the next statement, unless the instruction has ended (00_scope.md R13). -/
def Res.bind {α β : Type} (r : Res α) (k : α → State → Res β) : Res β :=
  match r with
  | .ok v s => k v s
  | .trapped s => .trapped s
  | .stuck f => .stuck f

/-- The outcome of an instruction: a trap is a next state too (60_exceptions.md R197). -/
def Res.outcome (r : Res Unit) : Host.Outcome State Fault Refusal :=
  match r with
  | .ok _ s => .next s
  | .trapped s => .next s
  | .stuck f => .fault f

/-! ## Core memory -/

/-- The byte at an address; an unlisted address reads as 0 (10_state.md R40). -/
def Memory.read : Memory → Nat → Byte
  | [], _ => 0
  | (b, w) :: m, a => if a = b then w else Memory.read m a

/-- Write one byte, keeping the addresses rising and no zero byte listed. -/
def Memory.write : Memory → Nat → Byte → Memory
  | [], a, v => if v = 0 then [] else [(a, v)]
  | (b, w) :: m, a, v =>
    if a < b then (if v = 0 then (b, w) :: m else (a, v) :: (b, w) :: m)
    else if a = b then (if v = 0 then m else (a, v) :: m)
    else (b, w) :: Memory.write m a v

/-- The canonical form of core memory: addresses strictly rising, no zero byte listed. -/
abbrev Memory.wf (m : Memory) : Prop :=
  m.Pairwise (fun c d => c.1 < d.1) ∧ ∀ c ∈ m, c.2 ≠ 0

/-- A byte of core as the value of a byte operand (assumption 10). -/
def ofByte (b : Byte) : Word := b.setWidth 16

/-- Bits 7:0 of a word. -/
def lowByte (v : Word) : Byte := v.setWidth 8

/-- Bits 15:8 of a word. -/
def highByte (v : Word) : Byte := v.extractLsb' 8 8

/-- Read a byte or a little-endian word of core memory (20_memory.md R47, R50). -/
def State.coreRead (s : State) (a : Word) : Size → Word
  | .byte => ofByte (s.core.read a.toNat)
  | .word => wordOfBytes (s.core.read a.toNat) (s.core.read (a.toNat + 1))

/-- Write a byte or a little-endian word of core memory (20_memory.md R47, R51). -/
def State.coreWrite (s : State) (a : Word) (sz : Size) (v : Word) : State :=
  match sz with
  | .byte => { s with core := s.core.write a.toNat (lowByte v) }
  | .word => { s with core := (s.core.write a.toNat (lowByte v)).write (a.toNat + 1) (highByte v) }

/-- The bytes of a store's buffer (20_memory.md R51). -/
def bufferOf (v : Word) : Size → List Byte
  | .byte => [lowByte v]
  | .word => [lowByte v, highByte v]

/-! ## The bookkeeping of TCACHE = ON (20_memory.md R75; assumption 8) -/

/-- The address of the word a byte lies in. -/
def wordAddr (a : Word) : Word := a &&& 0o177776

/-- Add an address to a list without repeats. -/
def insertAddr (a : Word) (l : List Word) : List Word := if a ∈ l then l else a :: l

/-- With TCACHE = ON, the opcode word at an address has been executed. -/
def State.noteExecuted (s : State) (a : Word) : State :=
  if s.params.tcache then { s with thunks := { s.thunks with bound := insertAddr a s.thunks.bound } } else s

/-- With TCACHE = ON, the program has stored to an address: mark its word if it has been executed. -/
def State.noteStore (s : State) (a : Word) : State :=
  if s.params.tcache ∧ wordAddr a ∈ s.thunks.bound then
    { s with thunks := { s.thunks with overwritten := insertAddr (wordAddr a) s.thunks.overwritten } }
  else s

/-- With TCACHE = ON: the opcode word at an address was stored to after its first execution. -/
abbrev State.stale (s : State) (a : Word) : Prop :=
  s.params.tcache = true ∧ a ∈ s.thunks.overwritten

/-! ## Devices -/

/-- A binding's range contains an address (20_memory.md R53). -/
def covers (b : Binding) (a : Nat) : Bool := b.base ≤ a && a < b.base + b.length

/-- `DeviceLookup(a)`: the first binding in list order whose range contains `a` (20_memory.md R53). -/
def State.deviceLookup (s : State) (a : Word) : Option Binding :=
  s.devices.find? (fun b => covers b a.toNat)

/-- One call to a handler: context, offset from the base, size (20_memory.md R54). -/
def callOf (b : Binding) (op : DeviceOp) (a : Word) (sz : Size) : DeviceCall :=
  { handler := b.handler, context := b.context, op := op, offset := a.toNat - b.base, size := sz }

/-- The call has been made: exactly once, in program order (20_memory.md R55). -/
def State.logCall (s : State) (c : DeviceCall) : State := { s with deviceLog := s.deviceLog ++ [c] }

/-- The value of a device's answer to a `Load` (20_memory.md R50). -/
def valueOfBuffer (lo hi : Byte) : Size → Word
  | .byte => ofByte lo
  | .word => wordOfBytes lo hi

/-- A device `Load` (20_memory.md R50, R54; assumption 5). -/
def State.deviceLoad (s : State) (b : Binding) (a : Word) (sz : Size) : Res Word :=
  let call := callOf b .load a sz
  match Config.deviceLoad s.deviceLog call with
  | .bytes lo hi => .ok (valueOfBuffer lo hi sz) (s.logCall call)
  | .trap k => .trapped ((s.logCall call).raise (.fault k) (some a))
  | .never => .stuck .deviceNeverReturns

/-- A device `Store` (20_memory.md R51, R54; assumption 5). -/
def State.deviceStore (s : State) (b : Binding) (a : Word) (sz : Size) (v : Word) : Res Unit :=
  let call := callOf b (.store (bufferOf v sz)) a sz
  match Config.deviceStore s.deviceLog call with
  | .done => .ok () ((s.logCall call).noteStore a)
  | .trap k => .trapped ((s.logCall call).raise (.fault k) (some a))
  | .never => .stuck .deviceNeverReturns

/-! ## The access controller -/

/-- A word access at an odd address (20_memory.md R48). -/
abbrev misaligned (a : Word) (sz : Size) : Prop := sz = .word ∧ a.getLsbD 0 = true

/-- The address lies in core memory (20_memory.md R42, R43). -/
abbrev State.inCore (s : State) (a : Word) : Prop := a.toNat < s.params.ioBase

/-- `MemRead(a, n)` (20_memory.md R50). -/
def State.memRead (s : State) (a : Word) (sz : Size) : Res Word :=
  if misaligned a sz then .trapped (s.raise (.fault .oddAddress) (some a))
  else if s.inCore a then .ok (s.coreRead a sz) s
  else
    match s.deviceLookup a with
    | none => .trapped (s.raise (.fault .nonexistentAddress) (some a))
    | some b => s.deviceLoad b a sz

/-- `MemWrite(a, n, v)` (20_memory.md R51). -/
def State.memWrite (s : State) (a : Word) (sz : Size) (v : Word) : Res Unit :=
  if misaligned a sz then .trapped (s.raise (.fault .oddAddress) (some a))
  else if s.inCore a then .ok () ((s.coreWrite a sz v).noteStore a)
  else
    match s.deviceLookup a with
    | none => .trapped (s.raise (.fault .nonexistentAddress) (some a))
    | some b => s.deviceStore b a sz v

/-! ## Fetch and stack -/

/-- `Fetch()`: the next word of the instruction stream; `pc` moves only when the read succeeds (20_memory.md R56). -/
def State.fetch (s : State) : Res Word :=
  (s.memRead s.pc .word).bind fun w s => .ok w { s with pc := s.pc + 2 }

/-- Push a word: `sp <- sp - 2; MemWrite(sp, 2, v)`. A trap in the store leaves `sp` decremented (44_subroutine.md
R170). -/
def State.push (s : State) (v : Word) : Res Unit :=
  let s := { s with sp := s.sp - 2 }
  s.memWrite s.sp .word v

/-- `pc <- MemRead(sp, 2); sp <- sp + 2`: the first pop of RTI (46_system.md R184). -/
def State.popPc (s : State) : Res Unit :=
  (s.memRead s.sp .word).bind fun w s => .ok () { s with pc := w, sp := s.sp + 2 }

/-- `v <- MemRead(sp, 2); sp <- sp + 2; WritePSW(v)`: the second pop of RTI (46_system.md R184). -/
def State.popPsw (s : State) : Res Unit :=
  (s.memRead s.sp .word).bind fun v s => .ok () ({ s with sp := s.sp + 2 }.writePSW v)

/-- RETURN FROM A TRAP, after the privilege check: pop `pc`, then pop the PSW through `WritePSW` (46_system.md R184,
R185). -/
def State.returnFromTrap (s : State) : Res Unit :=
  s.popPc.bind fun _ s => s.popPsw

/-- The opcode fetch of a step (70_reset_and_hazards.md R214): the latch takes the instruction's address, then the
opcode once it is read. -/
def State.fetchOpcode (s : State) : Res Word :=
  ({ s with latch := { instAddr := s.pc, opcode := none } }).fetch.bind fun w s =>
    .ok w { s with latch := { s.latch with opcode := some w } }

/-! ## Placing an instruction -/

/-- Write bytes into core memory from an address on, as the loader does, modulo 2^16; addresses from the I/O boundary
on take nothing (70_reset_and_hazards.md R212). -/
def placeBytes (m : Memory) (ioBase a : Nat) : List Byte → Memory
  | [] => m
  | b :: bs =>
    let at16 := a % 0x10000
    placeBytes (if at16 < ioBase then m.write at16 b else m) ioBase (a + 1) bs

/-- The state with an instruction where `step` fetches next, so that the very next step runs it: its bytes at `pc`,
no trap pending, and the word not marked stale. Where no word of core can stand at `pc` (an odd `pc`, or one in I/O
space) the loader sets `pc` to 0 first (assumption 3). -/
def State.placeInstr (s : State) (bytes : List Byte) : State :=
  let pc : Word := if s.pc.getLsbD 0 = true ∨ s.params.ioBase ≤ s.pc.toNat then 0 else s.pc
  { s with
    pc := pc, trap := none, core := placeBytes s.core s.params.ioBase pc.toNat bytes,
    thunks := { s.thunks with overwritten := s.thunks.overwritten.filter (fun a => a ≠ pc) } }

end Sys2Proof.Machine
end

