-- ==== Sys2Proof/Machine/Flags.lean ====
section
/-! DEFINITION. Every result and condition-code computation of the instruction rules (00_scope.md R11, R14;
41_double_operand.md; 42_single_operand.md; 43_branches.md; 45_register_ops.md). Each flag function takes the condition
codes the instruction found, so that a flag it does not name stays (10_state.md R31). -/

namespace Sys2Proof.Machine

/-- `mask(sz)` (00_scope.md R11). -/
def maskOf : Size → Word
  | .byte => 0o377
  | .word => 0o177777

/-- `v[msb(sz)]` (00_scope.md R11): the sign bit, which is `N(v)`. -/
def signOf (sz : Size) (v : Word) : Bool := v.getLsbD (sz.bits - 1)

/-- `Z(v)` (00_scope.md R11). -/
def isZero (sz : Size) (v : Word) : Bool := v &&& maskOf sz = 0

/-! ## Results -/

/-- `~s & d` (41_double_operand.md R113, R114). -/
def bicResult (sz : Size) (s d : Word) : Word := ~~~s &&& d &&& maskOf sz

/-- `s | d` (41_double_operand.md R115, R116). -/
def bisResult (sz : Size) (s d : Word) : Word := (s ||| d) &&& maskOf sz

/-- `s & d` (41_double_operand.md R111, R112). -/
def bitResult (sz : Size) (s d : Word) : Word := s &&& d &&& maskOf sz

/-- `(s + d) mod 2^16` (41_double_operand.md R117). -/
def addResult (s d : Word) : Word := s + d

/-- `(a - b) mod 2^bits`: CMP takes source minus destination, SUB destination minus source (41_double_operand.md R109,
R110, R118). -/
def diff (sz : Size) (a b : Word) : Word := (a - b) &&& maskOf sz

/-- `~d` (42_single_operand.md R122, R123). -/
def comResult (sz : Size) (d : Word) : Word := ~~~d &&& maskOf sz

/-- `(d + 1) mod 2^bits` (42_single_operand.md R124, R125). -/
def incResult (sz : Size) (d : Word) : Word := (d + 1) &&& maskOf sz

/-- `(d - 1) mod 2^bits` (42_single_operand.md R126, R127). -/
def decResult (sz : Size) (d : Word) : Word := (d - 1) &&& maskOf sz

/-! ## Condition codes -/

/-- N and Z from the result, V = 0, C unchanged: MOV, BIT, BIC, BIS and their byte forms (41_double_operand.md R107,
R108, R111 to R116). -/
def logicFlags (sz : Size) (r : Word) (old : CC) : CC :=
  { n := signOf sz r, z := isZero sz r, v := false, c := old.c }

/-- CMP, CMPB: `r = s - d`; V signed overflow, C the unsigned borrow (41_double_operand.md R109, R110). -/
def cmpFlags (sz : Size) (s d : Word) (_old : CC) : CC :=
  let r := diff sz s d
  { n := signOf sz r, z := isZero sz r,
    v := signOf sz s != signOf sz d && signOf sz r != signOf sz s,
    c := s.toNat < d.toNat }

/-- SUB: `r = d - s`; V signed overflow, C the unsigned borrow (41_double_operand.md R118). -/
def subFlags (s d : Word) (_old : CC) : CC :=
  let r := diff .word d s
  { n := signOf .word r, z := isZero .word r,
    v := signOf .word s != signOf .word d && signOf .word r == signOf .word s,
    c := d.toNat < s.toNat }

/-- ADD: V signed overflow, C the carry out (41_double_operand.md R117). -/
def addFlags (s d : Word) (_old : CC) : CC :=
  let r := addResult s d
  { n := signOf .word r, z := isZero .word r,
    v := signOf .word s == signOf .word d && signOf .word r != signOf .word s,
    c := s.toNat + d.toNat ≥ 2 ^ 16 }

/-- CLR, CLRB: N = 0, Z = 1, V = 0, C = 0 (42_single_operand.md R120, R121). -/
def clrFlags : CC := { n := false, z := true, v := false, c := false }

/-- COM, COMB: N and Z from the result, V = 0, C = 1 (42_single_operand.md R122, R123). -/
def comFlags (sz : Size) (d : Word) (_old : CC) : CC :=
  let r := comResult sz d
  { n := signOf sz r, z := isZero sz r, v := false, c := true }

/-- The most negative value of a size: 0o100000 or 0o200 (42_single_operand.md R124, R125). -/
def minOf : Size → Word
  | .byte => 0o200
  | .word => 0o100000

/-- The largest positive value of a size: 0o077777 or 0o177 (42_single_operand.md R126, R127). -/
def maxOf : Size → Word
  | .byte => 0o177
  | .word => 0o077777

/-- INC, INCB: V = (r = 0o100000), or 0o200 for the byte; C unchanged (42_single_operand.md R124, R125). -/
def incFlags (sz : Size) (d : Word) (old : CC) : CC :=
  let r := incResult sz d
  { n := signOf sz r, z := isZero sz r, v := r == minOf sz, c := old.c }

/-- DEC, DECB: V = (r = 0o077777), or 0o177 for the byte; C unchanged (42_single_operand.md R126, R127). -/
def decFlags (sz : Size) (d : Word) (old : CC) : CC :=
  let r := decResult sz d
  { n := signOf sz r, z := isZero sz r, v := r == maxOf sz, c := old.c }

/-- TST, TSTB: N and Z from the operand, V = 0, C = 0 (42_single_operand.md R128, R129). -/
def tstFlags (sz : Size) (d : Word) (_old : CC) : CC :=
  { n := signOf sz d, z := isZero sz d, v := false, c := false }

/-! ## ASH (45_register_ops.md R175) -/

/-- `n = signed(s[5:0])`, the shift count in -32 to 31. -/
def ashCount (s : Word) : Int := (s.setWidth 6).toInt

/-- A result with the carry and overflow of its shift. -/
structure Shifted where
  r  : Word
  c  : Bool
  ov : Bool
deriving DecidableEq, Repr

/-- The left shift by `n`: `T = v << n`; C is `T[16]`; V is set when a bit shifted out disagrees with the final
sign. -/
def ashLeft (v : Word) (n : Nat) : Shifted :=
  let t := v.toNat * 2 ^ n
  let r := BitVec.ofNat 16 t
  { r := r, c := t.testBit 16, ov := (List.range n).any fun k => t.testBit (16 + k) != r.getLsbD 15 }

/-- The right shift by `m`: arithmetic on the sign-extended value; C is the last bit shifted out; V is 0. Division
by a positive number rounds down, as `floor` does. -/
def ashRight (v : Word) (m : Nat) : Shifted :=
  { r := BitVec.ofInt 16 (v.toInt / 2 ^ m), c := v.toInt / 2 ^ (m - 1) % 2 == 1, ov := false }

/-- ASH's three cases: no shift, left, right. -/
def ashShift (v : Word) (n : Int) : Shifted :=
  if n = 0 then { r := v, c := false, ov := false }
  else if 0 < n then ashLeft v n.toNat
  else ashRight v (-n).toNat

/-- ASH's condition codes: N and Z from the result, V and C of the shift. -/
def ashFlags (q : Shifted) : CC :=
  { n := signOf .word q.r, z := isZero .word q.r, v := q.ov, c := q.c }

/-! ## MUL (45_register_ops.md R176) -/

/-- The exact signed product. -/
def mulProduct (a b : Word) : Int := a.toInt * b.toInt

/-- `P[31:16]` of the product modulo 2^32. -/
def mulHigh (p : Int) : Word := (BitVec.ofInt 32 p).extractLsb' 16 16

/-- `P[15:0]` of the product modulo 2^32. -/
def mulLow (p : Int) : Word := (BitVec.ofInt 32 p).extractLsb' 0 16

/-- `MUL_C(p)` under each value of `MUL_C_BOUND`. -/
def mulCarry (bound : MulCBound) (p : Int) : Bool :=
  match bound with
  | .fits16 => !(-2 ^ 15 ≤ p && p ≤ 2 ^ 15 - 1)
  | .handbook => p < -2 ^ 15 || p ≥ 2 ^ 15 - 1

/-- MUL's condition codes: N and Z from the 32-bit product, V = 0. -/
def mulFlags (bound : MulCBound) (p : Int) : CC :=
  { n := p < 0, z := p == 0, v := false, c := mulCarry bound p }

/-! ## Branch conditions (43_branches.md R155 to R169) -/

/-- BGE is taken when (N ^ V) = 0, BLT when it is 1 (R158, R159). -/
def CC.less (cc : CC) : Bool := cc.n ^^ cc.v

/-- BGT is taken when (Z | (N ^ V)) = 0, BLE when it is 1 (R160, R161). -/
def CC.lessEqual (cc : CC) : Bool := cc.z || (cc.n ^^ cc.v)

/-- BHI is taken when (C | Z) = 0, BLOS when it is 1 (R164, R165). -/
def CC.lowerSame (cc : CC) : Bool := cc.c || cc.z

/-- A branch's target: `pc + 2 * sext_16(O)` modulo 2^16, `pc` being the branch's address plus 2 (30_encoding.md R88). -/
def branchTarget (pc : Word) (off : BitVec 8) : Word := pc + 2 * off.signExtend 16

end Sys2Proof.Machine
end

