-- ==== Sys2Proof/Machine/Branches.lean ====
section
/-! DEFINITION. The branches (43_branches.md R153 to R169). -/

namespace Sys2Proof.Machine

/-- The common sequence of every branch: taken, `pc` is the target; not taken, nothing changes. No flag, no operand,
no access, no trap (R153). -/
def branchIf (taken : Bool) (off : BitVec 8) (s : State) : Host.Outcome State Fault Refusal :=
  .next (if taken then { s with pc := branchTarget s.pc off } else s)

/-- BR: branch always (R155). -/
def execBr (off : BitVec 8) (s : State) : Host.Outcome State Fault Refusal :=
  branchIf true off s

/-- BNE: branch if Z = 0 (R156). -/
def execBne (off : BitVec 8) (s : State) : Host.Outcome State Fault Refusal :=
  branchIf (!s.cc.z) off s

/-- BEQ: branch if Z = 1 (R157). -/
def execBeq (off : BitVec 8) (s : State) : Host.Outcome State Fault Refusal :=
  branchIf (s.cc.z) off s

/-- BGE: branch if (N ^ V) = 0 (R158). -/
def execBge (off : BitVec 8) (s : State) : Host.Outcome State Fault Refusal :=
  branchIf (!s.cc.less) off s

/-- BLT: branch if (N ^ V) = 1 (R159). -/
def execBlt (off : BitVec 8) (s : State) : Host.Outcome State Fault Refusal :=
  branchIf (s.cc.less) off s

/-- BGT: branch if (Z | (N ^ V)) = 0 (R160). -/
def execBgt (off : BitVec 8) (s : State) : Host.Outcome State Fault Refusal :=
  branchIf (!s.cc.lessEqual) off s

/-- BLE: branch if (Z | (N ^ V)) = 1 (R161). -/
def execBle (off : BitVec 8) (s : State) : Host.Outcome State Fault Refusal :=
  branchIf (s.cc.lessEqual) off s

/-- BPL: branch if N = 0 (R162). -/
def execBpl (off : BitVec 8) (s : State) : Host.Outcome State Fault Refusal :=
  branchIf (!s.cc.n) off s

/-- BMI: branch if N = 1 (R163). -/
def execBmi (off : BitVec 8) (s : State) : Host.Outcome State Fault Refusal :=
  branchIf (s.cc.n) off s

/-- BHI: branch if (C | Z) = 0 (R164). -/
def execBhi (off : BitVec 8) (s : State) : Host.Outcome State Fault Refusal :=
  branchIf (!s.cc.lowerSame) off s

/-- BLOS: branch if (C | Z) = 1 (R165). -/
def execBlos (off : BitVec 8) (s : State) : Host.Outcome State Fault Refusal :=
  branchIf (s.cc.lowerSame) off s

/-- BVC: branch if V = 0 (R166). -/
def execBvc (off : BitVec 8) (s : State) : Host.Outcome State Fault Refusal :=
  branchIf (!s.cc.v) off s

/-- BVS: branch if V = 1 (R167). -/
def execBvs (off : BitVec 8) (s : State) : Host.Outcome State Fault Refusal :=
  branchIf (s.cc.v) off s

/-- BCC: branch if C = 0 (R168). -/
def execBcc (off : BitVec 8) (s : State) : Host.Outcome State Fault Refusal :=
  branchIf (!s.cc.c) off s

/-- BCS: branch if C = 1 (R169). -/
def execBcs (off : BitVec 8) (s : State) : Host.Outcome State Fault Refusal :=
  branchIf (s.cc.c) off s

end Sys2Proof.Machine
end

