-- ==== Sys2Proof/Machine/Operands.lean ====
section
/-! DEFINITION. The operand address resolver (20_memory.md R58 to R71), reading and writing through a locator, and the
operand sequences the instruction families share (41_double_operand.md R103 to R105; 42_single_operand.md R119). -/

namespace Sys2Proof.Machine

/-- An operand locator: `Reg(r)` or `Mem(a)` (20_memory.md R58). -/
inductive Loc where
  | reg (r : Reg)
  | mem (a : Word)
deriving DecidableEq, Repr

/-- `step(r, sz)`: 2 for SP and PC, else the operand size (20_memory.md R58). -/
def stepOf (r : Reg) (sz : Size) : Word :=
  if r = .sp ∨ r = .pc then 2 else BitVec.ofNat 16 sz.bytes

/-- `Resolve(mode, r, sz)` (20_memory.md R58 to R66). -/
def resolve (o : Operand) (sz : Size) (s : State) : Res Loc :=
  match o.mode with
  | .register => .ok (.reg o.reg) s
  | .deferred => .ok (.mem (s.x o.reg)) s
  | .autoInc => .ok (.mem (s.x o.reg)) (s.setX o.reg (s.x o.reg + stepOf o.reg sz))
  | .autoIncDeferred =>
    (s.memRead (s.x o.reg) .word).bind fun a s => .ok (.mem a) (s.setX o.reg (s.x o.reg + 2))
  | .autoDec =>
    let s := s.setX o.reg (s.x o.reg - stepOf o.reg sz)
    .ok (.mem (s.x o.reg)) s
  | .autoDecDeferred =>
    let s := s.setX o.reg (s.x o.reg - 2)
    (s.memRead (s.x o.reg) .word).bind fun a s => .ok (.mem a) s
  | .index => s.fetch.bind fun d s => .ok (.mem (s.x o.reg + d)) s
  | .indexDeferred =>
    s.fetch.bind fun d s => (s.memRead (s.x o.reg + d) .word).bind fun a s => .ok (.mem a) s

/-- The index words a specifier takes from the instruction stream: modes 6 and 7, and modes 2 and 3 on PC
(30_encoding.md R90). -/
def extraWords (o : Operand) : Nat :=
  match o.mode with
  | .index | .indexDeferred => 1
  | .autoInc | .autoIncDeferred => if o.reg = .pc then 1 else 0
  | .register | .deferred | .autoDec | .autoDecDeferred => 0

/-- The value of a register as an operand: the whole word, or its low byte (20_memory.md R69). -/
def regValue (v : Word) : Size → Word
  | .byte => ofByte (lowByte v)
  | .word => v

/-- `ReadOp(loc, sz)` (20_memory.md R69). -/
def readOp (loc : Loc) (sz : Size) (s : State) : Res Word :=
  match loc with
  | .reg r => .ok (regValue (s.x r) sz) s
  | .mem a => s.memRead a sz

/-- What a register holds after a write of size `sz`: a byte write keeps the high byte (20_memory.md R70). -/
def mergeReg (old v : Word) : Size → Word
  | .byte => old &&& 0o177400 ||| ofByte (lowByte v)
  | .word => v

/-- `WriteOp(loc, sz, v)` (20_memory.md R70). -/
def writeOp (loc : Loc) (sz : Size) (v : Word) (s : State) : Res Unit :=
  match loc with
  | .reg r => .ok () (s.setX r (mergeReg (s.x r) v sz))
  | .mem a => s.memWrite a sz v

/-- `sext_16` of a byte operand (00_scope.md R10). -/
def signExtendByte (v : Word) : Word := (lowByte v).signExtend 16

/-- MOVB's write: a register destination takes the sign-extended byte, whole (41_double_operand.md R108). -/
def writeMovb (loc : Loc) (v : Word) (s : State) : Res Unit :=
  match loc with
  | .reg r => .ok () (s.setX r (signExtendByte v))
  | .mem a => s.memWrite a .byte v

/-- Resolve an operand and read it. -/
def readOperand (o : Operand) (sz : Size) (s : State) : Res Word :=
  (resolve o sz s).bind fun loc s => readOp loc sz s

/-- Resolve an operand and read it, keeping its locator for the write (42_single_operand.md R119). -/
def oneOperand (sz : Size) (dst : Operand) (s : State) : Res (Word × Loc) :=
  (resolve dst sz s).bind fun loc s => (readOp loc sz s).bind fun d s => .ok (d, loc) s

/-- The source value, the destination value and the destination's locator of a two-operand instruction that reads its
destination, in the order `OPERAND_ORDER` selects (41_double_operand.md R103). -/
def twoOperands (sz : Size) (src dst : Operand) (s : State) : Res (Word × Word × Loc) :=
  match s.params.operandOrder with
  | .srcFirst =>
    (readOperand src sz s).bind fun v s =>
    (oneOperand sz dst s).bind fun (d, loc) s => .ok (v, d, loc) s
  | .resolveBothFirst =>
    (resolve src sz s).bind fun sloc s =>
    (resolve dst sz s).bind fun dloc s =>
    (readOp sloc sz s).bind fun v s =>
    (readOp dloc sz s).bind fun d s => .ok (v, d, dloc) s

/-- The source value and the destination's locator of MOV and MOVB, which do not read their destination (R105), with
the flags written as soon as the source value is known: under SRC_FIRST that is before the destination is resolved
(41_double_operand.md R103, R104; assumption 9). -/
def moveOperands (sz : Size) (src dst : Operand) (flags : Word → CC → CC) (s : State) : Res (Word × Loc) :=
  match s.params.operandOrder with
  | .srcFirst =>
    (readOperand src sz s).bind fun v s =>
    (resolve dst sz (s.setCC (flags v s.cc))).bind fun loc s => .ok (v, loc) s
  | .resolveBothFirst =>
    (resolve src sz s).bind fun sloc s =>
    (resolve dst sz s).bind fun dloc s =>
    (readOp sloc sz s).bind fun v s => .ok (v, dloc) (s.setCC (flags v s.cc))

/-- A two-operand instruction that writes its result back: flags before the write (41_double_operand.md R103, R104). -/
def modifyTwo (sz : Size) (src dst : Operand) (result : Word → Word → Word) (flags : Word → Word → CC → CC)
    (s : State) : Res Unit :=
  (twoOperands sz src dst s).bind fun (v, d, loc) s =>
    writeOp loc sz (result v d) (s.setCC (flags v d s.cc))

/-- A two-operand instruction that writes flags only (41_double_operand.md R103). -/
def testTwo (sz : Size) (src dst : Operand) (flags : Word → Word → CC → CC) (s : State) : Res Unit :=
  (twoOperands sz src dst s).bind fun (v, d, _) s => .ok () (s.setCC (flags v d s.cc))

/-- A one-operand instruction that reads its destination and writes a result back: flags after the read and before the
write (42_single_operand.md R119). -/
def modifyOne (sz : Size) (dst : Operand) (result : Word → Word) (flags : Word → CC → CC) (s : State) : Res Unit :=
  (oneOperand sz dst s).bind fun (d, loc) s => writeOp loc sz (result d) (s.setCC (flags d s.cc))

/-- A one-operand instruction that writes flags only (42_single_operand.md R119). -/
def testOne (sz : Size) (dst : Operand) (flags : Word → CC → CC) (s : State) : Res Unit :=
  (oneOperand sz dst s).bind fun (d, _) s => .ok () (s.setCC (flags d s.cc))

/-- CLR and CLRB: flags first, then resolve, then write 0; the destination is not read (42_single_operand.md R119,
R120). -/
def clearOne (sz : Size) (dst : Operand) (cc : CC) (s : State) : Res Unit :=
  (resolve dst sz (s.setCC cc)).bind fun loc s => writeOp loc sz 0 s

end Sys2Proof.Machine
end

