-- ==== Sys2Proof/Machine/DoubleOperand.lean ====
section
/-! DEFINITION. The two-operand instructions (41_double_operand.md R107 to R118). -/

namespace Sys2Proof.Machine

/-- MOV (R107). -/
def execMov (src dst : Operand) (s : State) : Host.Outcome State Fault Refusal :=
  ((moveOperands .word src dst (logicFlags .word) s).bind fun (v, loc) s => writeOp loc .word v s).outcome

/-- MOVB: a register destination takes the sign-extended byte (R108). -/
def execMovb (src dst : Operand) (s : State) : Host.Outcome State Fault Refusal :=
  ((moveOperands .byte src dst (logicFlags .byte) s).bind fun (v, loc) s => writeMovb loc v s).outcome

/-- CMP: source minus destination, flags only (R109). -/
def execCmp (src dst : Operand) (s : State) : Host.Outcome State Fault Refusal :=
  (testTwo .word src dst (cmpFlags .word) s).outcome

/-- CMPB (R110). -/
def execCmpb (src dst : Operand) (s : State) : Host.Outcome State Fault Refusal :=
  (testTwo .byte src dst (cmpFlags .byte) s).outcome

/-- BIT: flags of `s & d` only (R111). -/
def execBit (src dst : Operand) (s : State) : Host.Outcome State Fault Refusal :=
  (testTwo .word src dst (fun v d cc => logicFlags .word (bitResult .word v d) cc) s).outcome

/-- BITB (R112). -/
def execBitb (src dst : Operand) (s : State) : Host.Outcome State Fault Refusal :=
  (testTwo .byte src dst (fun v d cc => logicFlags .byte (bitResult .byte v d) cc) s).outcome

/-- BIC: `~s & d` (R113). -/
def execBic (src dst : Operand) (s : State) : Host.Outcome State Fault Refusal :=
  (modifyTwo .word src dst (bicResult .word) (fun v d cc => logicFlags .word (bicResult .word v d) cc) s).outcome

/-- BICB (R114). -/
def execBicb (src dst : Operand) (s : State) : Host.Outcome State Fault Refusal :=
  (modifyTwo .byte src dst (bicResult .byte) (fun v d cc => logicFlags .byte (bicResult .byte v d) cc) s).outcome

/-- BIS: `s | d` (R115). -/
def execBis (src dst : Operand) (s : State) : Host.Outcome State Fault Refusal :=
  (modifyTwo .word src dst (bisResult .word) (fun v d cc => logicFlags .word (bisResult .word v d) cc) s).outcome

/-- BISB (R116). -/
def execBisb (src dst : Operand) (s : State) : Host.Outcome State Fault Refusal :=
  (modifyTwo .byte src dst (bisResult .byte) (fun v d cc => logicFlags .byte (bisResult .byte v d) cc) s).outcome

/-- ADD (R117). -/
def execAdd (src dst : Operand) (s : State) : Host.Outcome State Fault Refusal :=
  (modifyTwo .word src dst addResult addFlags s).outcome

/-- SUB: destination minus source (R118). -/
def execSub (src dst : Operand) (s : State) : Host.Outcome State Fault Refusal :=
  (modifyTwo .word src dst (fun v d => diff .word d v) subFlags s).outcome

end Sys2Proof.Machine
end

