-- ==== Sys2Proof/Machine/RegisterOps.lean ====
section
/-! DEFINITION. Register-operand arithmetic: ASH and MUL (45_register_ops.md R174 to R176). Both read their source
operand first, always as a word, then the register; flags come before the register's write (R174). -/

namespace Sys2Proof.Machine

/-- ASH (R175). -/
def execAsh (r : Reg) (src : Operand) (s : State) : Host.Outcome State Fault Refusal :=
  ((readOperand src .word s).bind fun v s =>
    let q := ashShift (s.x r) (ashCount v)
    .ok () ((s.setCC (ashFlags q)).setX r q.r)).outcome

/-- The register writes of MUL: the high and low half into an even register's pair, the low half into an odd register
(R176). -/
def State.setProduct (s : State) (r : Reg) (p : Int) : State :=
  match pairOf r with
  | some r' => (s.setX r (mulHigh p)).setX r' (mulLow p)
  | none => s.setX r (mulLow p)

/-- MUL (R176). -/
def execMul (r : Reg) (src : Operand) (s : State) : Host.Outcome State Fault Refusal :=
  ((readOperand src .word s).bind fun v s =>
    let p := mulProduct (s.x r) v
    .ok () ((s.setCC (mulFlags s.params.mulCBound p)).setProduct r p)).outcome

end Sys2Proof.Machine
end

