-- ==== Sys2Proof/Machine/SingleOperand.lean ====
section
/-! DEFINITION. The implemented one-operand instructions (42_single_operand.md R120 to R129). -/

namespace Sys2Proof.Machine

/-- CLR (R120). -/
def execClr (dst : Operand) (s : State) : Host.Outcome State Fault Refusal :=
  (clearOne .word dst clrFlags s).outcome

/-- CLRB (R121). -/
def execClrb (dst : Operand) (s : State) : Host.Outcome State Fault Refusal :=
  (clearOne .byte dst clrFlags s).outcome

/-- COM (R122). -/
def execCom (dst : Operand) (s : State) : Host.Outcome State Fault Refusal :=
  (modifyOne .word dst (comResult .word) (comFlags .word) s).outcome

/-- COMB (R123). -/
def execComb (dst : Operand) (s : State) : Host.Outcome State Fault Refusal :=
  (modifyOne .byte dst (comResult .byte) (comFlags .byte) s).outcome

/-- INC (R124). -/
def execInc (dst : Operand) (s : State) : Host.Outcome State Fault Refusal :=
  (modifyOne .word dst (incResult .word) (incFlags .word) s).outcome

/-- INCB (R125). -/
def execIncb (dst : Operand) (s : State) : Host.Outcome State Fault Refusal :=
  (modifyOne .byte dst (incResult .byte) (incFlags .byte) s).outcome

/-- DEC (R126). -/
def execDec (dst : Operand) (s : State) : Host.Outcome State Fault Refusal :=
  (modifyOne .word dst (decResult .word) (decFlags .word) s).outcome

/-- DECB (R127). -/
def execDecb (dst : Operand) (s : State) : Host.Outcome State Fault Refusal :=
  (modifyOne .byte dst (decResult .byte) (decFlags .byte) s).outcome

/-- TST (R128). -/
def execTst (dst : Operand) (s : State) : Host.Outcome State Fault Refusal :=
  (testOne .word dst (tstFlags .word) s).outcome

/-- TSTB (R129). -/
def execTstb (dst : Operand) (s : State) : Host.Outcome State Fault Refusal :=
  (testOne .byte dst (tstFlags .byte) s).outcome

end Sys2Proof.Machine
end

