-- ==== Sys2Proof/Machine/Stubs.lean ====
section
/-! DEFINITION. The 34 stubs: named decoder cases with no semantics (30_encoding.md R98). Each raises
ILLEGAL_INSTRUCTION with no operand resolved, nothing read or written and no flag changed; the opcode fetch has left
`pc` at the stub's address + 2. -/

namespace Sys2Proof.Machine

/-- The execution every stub and UNKNOWN share (30_encoding.md R98; 46_system.md R192). -/
def stub (s : State) : Host.Outcome State Fault Refusal := .next s.raiseIllegal

/-- NEG, a stub (42_single_operand.md R130). -/
def execNeg (_dst : Operand) (s : State) : Host.Outcome State Fault Refusal := stub s

/-- NEGB, a stub (42_single_operand.md R131). -/
def execNegb (_dst : Operand) (s : State) : Host.Outcome State Fault Refusal := stub s

/-- ADC, a stub (42_single_operand.md R132). -/
def execAdc (_dst : Operand) (s : State) : Host.Outcome State Fault Refusal := stub s

/-- ADCB, a stub (42_single_operand.md R133). -/
def execAdcb (_dst : Operand) (s : State) : Host.Outcome State Fault Refusal := stub s

/-- SBC, a stub (42_single_operand.md R134). -/
def execSbc (_dst : Operand) (s : State) : Host.Outcome State Fault Refusal := stub s

/-- SBCB, a stub (42_single_operand.md R135). -/
def execSbcb (_dst : Operand) (s : State) : Host.Outcome State Fault Refusal := stub s

/-- ROR, a stub (42_single_operand.md R136). -/
def execRor (_dst : Operand) (s : State) : Host.Outcome State Fault Refusal := stub s

/-- RORB, a stub (42_single_operand.md R137). -/
def execRorb (_dst : Operand) (s : State) : Host.Outcome State Fault Refusal := stub s

/-- ROL, a stub (42_single_operand.md R138). -/
def execRol (_dst : Operand) (s : State) : Host.Outcome State Fault Refusal := stub s

/-- ROLB, a stub (42_single_operand.md R139). -/
def execRolb (_dst : Operand) (s : State) : Host.Outcome State Fault Refusal := stub s

/-- ASR, a stub (42_single_operand.md R140). -/
def execAsr (_dst : Operand) (s : State) : Host.Outcome State Fault Refusal := stub s

/-- ASRB, a stub (42_single_operand.md R141). -/
def execAsrb (_dst : Operand) (s : State) : Host.Outcome State Fault Refusal := stub s

/-- ASL, a stub (42_single_operand.md R142). -/
def execAsl (_dst : Operand) (s : State) : Host.Outcome State Fault Refusal := stub s

/-- ASLB, a stub (42_single_operand.md R143). -/
def execAslb (_dst : Operand) (s : State) : Host.Outcome State Fault Refusal := stub s

/-- SWAB, a stub (42_single_operand.md R144). -/
def execSwab (_dst : Operand) (s : State) : Host.Outcome State Fault Refusal := stub s

/-- SXT, a stub (42_single_operand.md R145). -/
def execSxt (_dst : Operand) (s : State) : Host.Outcome State Fault Refusal := stub s

/-- MARK, a stub (42_single_operand.md R146). -/
def execMark (_count : BitVec 6) (s : State) : Host.Outcome State Fault Refusal := stub s

/-- MFPI, a stub (42_single_operand.md R147). -/
def execMfpi (_dst : Operand) (s : State) : Host.Outcome State Fault Refusal := stub s

/-- MTPI, a stub (42_single_operand.md R148). -/
def execMtpi (_dst : Operand) (s : State) : Host.Outcome State Fault Refusal := stub s

/-- MTPS, a stub (42_single_operand.md R149). -/
def execMtps (_dst : Operand) (s : State) : Host.Outcome State Fault Refusal := stub s

/-- MFPD, a stub (42_single_operand.md R150). -/
def execMfpd (_dst : Operand) (s : State) : Host.Outcome State Fault Refusal := stub s

/-- MTPD, a stub (42_single_operand.md R151). -/
def execMtpd (_dst : Operand) (s : State) : Host.Outcome State Fault Refusal := stub s

/-- MFPS, a stub (42_single_operand.md R152). -/
def execMfps (_dst : Operand) (s : State) : Host.Outcome State Fault Refusal := stub s

/-- JMP, a stub (44_subroutine.md R173). -/
def execJmp (_dst : Operand) (s : State) : Host.Outcome State Fault Refusal := stub s

/-- DIV, a stub (45_register_ops.md R177). -/
def execDiv (_r : Reg) (_src : Operand) (s : State) : Host.Outcome State Fault Refusal := stub s

/-- ASHC, a stub (45_register_ops.md R178). -/
def execAshc (_r : Reg) (_src : Operand) (s : State) : Host.Outcome State Fault Refusal := stub s

/-- XOR, a stub (45_register_ops.md R179). -/
def execXor (_r : Reg) (_dst : Operand) (s : State) : Host.Outcome State Fault Refusal := stub s

/-- SOB, a stub (45_register_ops.md R180). -/
def execSob (_r : Reg) (_count : BitVec 6) (s : State) : Host.Outcome State Fault Refusal := stub s

/-- BPT, a stub (46_system.md R186). -/
def execBpt (s : State) : Host.Outcome State Fault Refusal := stub s

/-- IOT, a stub (46_system.md R187). -/
def execIot (s : State) : Host.Outcome State Fault Refusal := stub s

/-- RESET, a stub (46_system.md R188). -/
def execReset (s : State) : Host.Outcome State Fault Refusal := stub s

/-- SPL, a stub (46_system.md R189). -/
def execSpl (_level : BitVec 3) (s : State) : Host.Outcome State Fault Refusal := stub s

/-- EMT, a stub (46_system.md R190). -/
def execEmt (_code : BitVec 8) (s : State) : Host.Outcome State Fault Refusal := stub s

/-- TRAP, a stub (46_system.md R191). -/
def execTrap (_code : BitVec 8) (s : State) : Host.Outcome State Fault Refusal := stub s

end Sys2Proof.Machine
end

