-- ==== Sys2Proof/Machine/Subroutine.lean ====
section
/-! DEFINITION. Subroutine call and return (44_subroutine.md R170, R171). -/

namespace Sys2Proof.Machine

/-- JSR (R170). Resolving a mode-0 target has no effect and gives a bare register, which is the illegal form; every
other mode gives the address `ea`. R's value is read after the resolution. -/
def execJsr (r : Reg) (dst : Operand) (s : State) : Host.Outcome State Fault Refusal :=
  ((resolve dst .word s).bind fun loc s =>
    match loc with
    | .reg _ => .trapped s.raiseIllegal
    | .mem ea => (s.push (s.x r)).bind fun _ s => .ok () { s.setX r s.pc with pc := ea }).outcome

/-- RTS (R171): the read comes first, so a trap there changes nothing; `pc` takes R, `sp` steps, R takes the word
read. -/
def execRts (r : Reg) (s : State) : Host.Outcome State Fault Refusal :=
  ((s.memRead s.sp .word).bind fun w s =>
    let s := { s with pc := s.x r }
    let s := { s with sp := s.sp + 2 }
    .ok () (s.setX r w)).outcome

end Sys2Proof.Machine
end

