-- ==== Sys2Proof/Machine/System.lean ====
section
/-! DEFINITION. CCODE, HALT, WAIT, RTI and RTT (46_system.md R181 to R185). -/

namespace Sys2Proof.Machine

/-- CCODE (R181): a mask-or or a mask-and on the packed PSW, not through `WritePSW`. -/
def execCcode (set n z v c : Bool) (s : State) : Host.Outcome State Fault Refusal :=
  let m := CC.toWord { n := n, z := z, v := v, c := c }
  .next { s with psw := if set then s.psw ||| m else s.psw &&& ~~~m }

/-- HALT (R182): the pseudo-trap HALT in kernel mode, ILLEGAL_INSTRUCTION in every other mode. -/
def execHalt (s : State) : Host.Outcome State Fault Refusal :=
  if s.kernel then .next (s.raise .halt none) else .next s.raiseIllegal

/-- WAIT (R183): the pseudo-trap WAIT in every mode. -/
def execWait (s : State) : Host.Outcome State Fault Refusal := .next (s.raise .wait none)

/-- RTI (R184): kernel mode only. -/
def execRti (s : State) : Host.Outcome State Fault Refusal :=
  if s.kernel then s.returnFromTrap.outcome else .next s.raiseIllegal

/-- RTT (R185): the same operation as RTI, with its own decoder identity. -/
def execRtt (s : State) : Host.Outcome State Fault Refusal :=
  if s.kernel then s.returnFromTrap.outcome else .next s.raiseIllegal

end Sys2Proof.Machine
end

