-- ==== Sys2Proof/Machine/Dispatch.lean ====
section
/-! DEFINITION. One arm per constructor of Instr, each one call of that instruction's meaning. -/

namespace Sys2Proof.Machine

/-- The meaning of an instruction, after its opcode has been fetched and latched (70_reset_and_hazards.md R214:
`Execute(Decode(op), op)`). -/
def exec (i : Instr) (s : State) : Host.Outcome State Fault Refusal :=
  match i with
  -- Two-operand instructions, format DOUBLE (30_encoding.md R79; 41_double_operand.md)
  | .mov src dst => Sys2Proof.Machine.execMov src dst s
  | .movb src dst => Sys2Proof.Machine.execMovb src dst s
  | .cmp src dst => Sys2Proof.Machine.execCmp src dst s
  | .cmpb src dst => Sys2Proof.Machine.execCmpb src dst s
  | .bit src dst => Sys2Proof.Machine.execBit src dst s
  | .bitb src dst => Sys2Proof.Machine.execBitb src dst s
  | .bic src dst => Sys2Proof.Machine.execBic src dst s
  | .bicb src dst => Sys2Proof.Machine.execBicb src dst s
  | .bis src dst => Sys2Proof.Machine.execBis src dst s
  | .bisb src dst => Sys2Proof.Machine.execBisb src dst s
  | .add src dst => Sys2Proof.Machine.execAdd src dst s
  | .sub src dst => Sys2Proof.Machine.execSub src dst s
  -- One-operand instructions, format SINGLE (R81; 42_single_operand.md)
  | .clr dst => Sys2Proof.Machine.execClr dst s
  | .clrb dst => Sys2Proof.Machine.execClrb dst s
  | .com dst => Sys2Proof.Machine.execCom dst s
  | .comb dst => Sys2Proof.Machine.execComb dst s
  | .inc dst => Sys2Proof.Machine.execInc dst s
  | .incb dst => Sys2Proof.Machine.execIncb dst s
  | .dec dst => Sys2Proof.Machine.execDec dst s
  | .decb dst => Sys2Proof.Machine.execDecb dst s
  | .tst dst => Sys2Proof.Machine.execTst dst s
  | .tstb dst => Sys2Proof.Machine.execTstb dst s
  -- One-operand stubs (42_single_operand.md)
  | .neg dst => Sys2Proof.Machine.execNeg dst s
  | .negb dst => Sys2Proof.Machine.execNegb dst s
  | .adc dst => Sys2Proof.Machine.execAdc dst s
  | .adcb dst => Sys2Proof.Machine.execAdcb dst s
  | .sbc dst => Sys2Proof.Machine.execSbc dst s
  | .sbcb dst => Sys2Proof.Machine.execSbcb dst s
  | .ror dst => Sys2Proof.Machine.execRor dst s
  | .rorb dst => Sys2Proof.Machine.execRorb dst s
  | .rol dst => Sys2Proof.Machine.execRol dst s
  | .rolb dst => Sys2Proof.Machine.execRolb dst s
  | .asr dst => Sys2Proof.Machine.execAsr dst s
  | .asrb dst => Sys2Proof.Machine.execAsrb dst s
  | .asl dst => Sys2Proof.Machine.execAsl dst s
  | .aslb dst => Sys2Proof.Machine.execAslb dst s
  | .swab dst => Sys2Proof.Machine.execSwab dst s
  | .sxt dst => Sys2Proof.Machine.execSxt dst s
  | .mark count => Sys2Proof.Machine.execMark count s
  | .mfpi dst => Sys2Proof.Machine.execMfpi dst s
  | .mtpi dst => Sys2Proof.Machine.execMtpi dst s
  | .mtps dst => Sys2Proof.Machine.execMtps dst s
  | .mfpd dst => Sys2Proof.Machine.execMfpd dst s
  | .mtpd dst => Sys2Proof.Machine.execMtpd dst s
  | .mfps dst => Sys2Proof.Machine.execMfps dst s
  -- Branches, format BRANCH (R82; 43_branches.md)
  | .br off => Sys2Proof.Machine.execBr off s
  | .bne off => Sys2Proof.Machine.execBne off s
  | .beq off => Sys2Proof.Machine.execBeq off s
  | .bge off => Sys2Proof.Machine.execBge off s
  | .blt off => Sys2Proof.Machine.execBlt off s
  | .bgt off => Sys2Proof.Machine.execBgt off s
  | .ble off => Sys2Proof.Machine.execBle off s
  | .bpl off => Sys2Proof.Machine.execBpl off s
  | .bmi off => Sys2Proof.Machine.execBmi off s
  | .bhi off => Sys2Proof.Machine.execBhi off s
  | .blos off => Sys2Proof.Machine.execBlos off s
  | .bvc off => Sys2Proof.Machine.execBvc off s
  | .bvs off => Sys2Proof.Machine.execBvs off s
  | .bcc off => Sys2Proof.Machine.execBcc off s
  | .bcs off => Sys2Proof.Machine.execBcs off s
  -- Subroutine call and return (44_subroutine.md)
  | .jsr r dst => Sys2Proof.Machine.execJsr r dst s
  | .rts r => Sys2Proof.Machine.execRts r s
  | .jmp dst => Sys2Proof.Machine.execJmp dst s
  -- Register-operand arithmetic, format RMR, and its stubs (R80; 45_register_ops.md)
  | .ash r src => Sys2Proof.Machine.execAsh r src s
  | .mul r src => Sys2Proof.Machine.execMul r src s
  | .div r src => Sys2Proof.Machine.execDiv r src s
  | .ashc r src => Sys2Proof.Machine.execAshc r src s
  | .xor r dst => Sys2Proof.Machine.execXor r dst s
  | .sob r count => Sys2Proof.Machine.execSob r count s
  -- Condition-code, system and zero-operand instructions (46_system.md)
  | .ccode set n z v c => Sys2Proof.Machine.execCcode set n z v c s
  | .halt => Sys2Proof.Machine.execHalt s
  | .wait => Sys2Proof.Machine.execWait s
  | .rti => Sys2Proof.Machine.execRti s
  | .rtt => Sys2Proof.Machine.execRtt s
  | .bpt => Sys2Proof.Machine.execBpt s
  | .iot => Sys2Proof.Machine.execIot s
  | .reset => Sys2Proof.Machine.execReset s
  | .spl level => Sys2Proof.Machine.execSpl level s
  | .emt code => Sys2Proof.Machine.execEmt code s
  | .trap code => Sys2Proof.Machine.execTrap code s

end Sys2Proof.Machine
end

