-- ==== Sys2Proof/Machine/Cycle.lean ====
section
/-! DEFINITION. The instruction cycle (70_reset_and_hazards.md R214). -/

namespace Sys2Proof.Machine

/-- `Execute(Decode(op), op)`: a named operation's meaning, or, for an UNKNOWN word, ILLEGAL_INSTRUCTION with no
operand access (46_system.md R192). -/
def execWord (op : Word) (s : State) : Host.Outcome State Fault Refusal :=
  match decode op with
  | .ok i => exec i s
  | .error _ => stub s

/-- What follows the opcode fetch. With TCACHE = ON a word stored to after its first execution is refused, and a word
executed is noted (20_memory.md R75); with TCACHE = OFF both do nothing. DESIGN CHOICE (assumption 18), unsafe: with
TCACHE = ON a word that reads differently on a later fetch with no store between, as a device may answer in I/O space,
is decoded anew; R75 speaks only of words stored to. DESIGN CHOICE (assumption 19), safe: the word is noted before its
instruction runs, so a store that its own first execution makes to it (`MOV R0, -(PC)`) counts as a store after that
execution, and its next execution is refused; R75 does not say. -/
def execFetched (op : Word) (s : State) : Host.Outcome State Fault Refusal :=
  if s.stale s.latch.instAddr then .refused .staleTranslation
  else execWord op (s.noteExecuted s.latch.instAddr)

/-- One `Step()` (R214): with a trap pending nothing executes and nothing changes (60_exceptions.md R199); else the
opcode fetch, whose trap ends the step (R198), then the decode and the execution. -/
def cycle (s : State) : Host.Outcome State Fault Refusal :=
  match s.trap with
  | some _ => .next s
  | none =>
    match s.fetchOpcode with
    | .ok op s => execFetched op s
    | .trapped s => .next s
    | .stuck f => .fault f

end Sys2Proof.Machine
end

