-- ==== Sys2Proof/Machine/Step.lean ====
section
/-! DEFINITION. The step, and placing the instruction it runs next. -/

namespace Sys2Proof.Machine

/-- One `Step()` of the block (70_reset_and_hazards.md R214, R215). -/
def step (s : State) : Host.Outcome State Fault Refusal := cycle s

/-- `s` with the instruction whose bits are `w` (bit 0 the least significant bit of the first word, every bit above
`nbits` zero) where `step` fetches next (70_reset_and_hazards.md R212; assumption 3). -/
def State.withFetchWord (s : State) (nbits w : Nat) : State :=
  s.placeInstr (bytesOf maxInstrBytes (w % 2 ^ nbits))

end Sys2Proof.Machine
end

