-- ==== Sys2Proof/Machine/HostPort.lean ====
section
/-! DEFINITION. What the host does to the block between steps (70_reset_and_hazards.md R212, R218; 10_state.md R41),
and `Run` (R214 to R217). None of these is a step. -/

namespace Sys2Proof.Machine

/-- The host has written bytes from an address on: with TCACHE = ON their words are marked like stored ones
(20_memory.md R75; assumption 8). -/
def State.noteWrites (s : State) (addr : Nat) : List Byte → State
  | [] => s
  | _ :: bs => (s.noteStore (BitVec.ofNat 16 addr)).noteWrites (addr + 1) bs

/-- Load an image: raw bytes into core memory; nothing goes to a device (R212). The image must lie below `IO_BASE`.
It is also the raw write of core memory between steps (10_state.md R41). -/
def State.loadImage (s : State) (addr : Nat) (bytes : List Byte) : State :=
  { s with core := placeBytes s.core s.params.ioBase addr bytes }.noteWrites addr bytes

/-- Set `pc` (R212). -/
def State.hostSetPc (s : State) (a : Word) : State := { s with pc := a }

/-- Write a live register raw (10_state.md R41). -/
def State.hostSetX (s : State) (r : Reg) (v : Word) : State := s.setX r v

/-- Write the shadow bank raw (10_state.md R41). -/
def State.hostSetShadow (s : State) (b : Bank) : State := { s with shadow := b }

/-- Write a stored stack pointer raw (10_state.md R41). -/
def State.hostSetSpSlot (s : State) (m : BitVec 2) (v : Word) : State := { s with spslot := s.spslot.set m v }

/-- Write the PSW raw: no bank or stack-pointer switch (10_state.md R41); bits 10:8 hold no state (R29). -/
def State.hostSetPsw (s : State) (v : Word) : State := { s with psw := v &&& pswMask }

/-- Write the trap controller raw (10_state.md R41). -/
def State.hostSetTrap (s : State) (t : Option TrapRecord) : State := { s with trap := t }

/-- Clear the pending trap (60_exceptions.md R202; R218). -/
def State.clearTrap (s : State) : State := { s with trap := none }

/-- Register the device bindings, once, before the first step (R212; 20_memory.md R53). -/
def State.hostSetDevices (s : State) (l : List Binding) : State := { s with devices := l }

/-- What `Step()` returns beside the state: whether a trap is pending (R214, R215). -/
def State.trapped (s : State) : Bool := s.trap.isSome

/-- The report of a pending trap (60_exceptions.md R200): kind, vector, opcode, instruction address, fault address. -/
def State.report (s : State) : Option TrapRecord := s.trap

/-- How a run of bounded length ends (R216, R217). -/
inductive RunEnd where
  /-- `Run` returned TRAPPED: the first state with a trap pending. -/
  | trapped (s : State)
  /-- The fuel ran out: not an end (R216). -/
  | notEnded (s : State)
  | fault (f : Fault)
  | refused (r : Refusal)
deriving DecidableEq, Repr

/-- `Run()` with fuel (R214, R216): step until a trap is pending. -/
def run : Nat → State → RunEnd
  | 0, s => if s.trapped then .trapped s else .notEnded s
  | n + 1, s =>
    if s.trapped then .trapped s
    else
      match step s with
      | .next t => run n t
      | .fault f => .fault f
      | .refused r => .refused r

end Sys2Proof.Machine
end

