-- ==== Sys2Proof/Safety.lean ====
section
/-! DEFINITION. What counts as a safe run (70_reset_and_hazards.md R217), the invariant every step keeps, and the
vocabulary of the claims. -/

namespace Sys2Proof.Machine

/-! ## Safe runs -/

/-- The normal end of a run: a HALT executed in kernel mode (70_reset_and_hazards.md R217). -/
def State.endedNormally (s : State) : Prop := ∃ t, s.trap = some t ∧ t.kind = .halt

/-- A stop the host may resume (R217). -/
def State.waiting (s : State) : Prop := ∃ t, s.trap = some t ∧ t.kind = .wait

/-- An end with a fault kind: no clean final state (R217). -/
def State.faulted (s : State) : Prop := ∃ t k, s.trap = some t ∧ t.kind = .fault k

/-- A run is safe when it does not end in a fault. -/
def State.safe (s : State) : Prop := ¬ s.faulted

/-! ## The invariant -/

/-- A trap record is as `raise` writes it: its vector is its kind's (60_exceptions.md R196, R197), and a pseudo-trap
has no fault address (R193). -/
abbrev TrapRecord.wf (t : TrapRecord) : Prop :=
  t.vector = vectorOf t.kind ∧ (t.kind = .halt ∨ t.kind = .wait → t.faultAddr = none)

/-- A logged device call went to a registered binding, for an address of the I/O space that the binding covers
(20_memory.md R53, R54). -/
abbrev State.callFromBinding (s : State) (c : DeviceCall) : Prop :=
  ∃ b ∈ s.devices, c.handler = b.handler ∧ c.context = b.context ∧ c.offset < b.length ∧
    s.params.ioBase ≤ b.base + c.offset

/-- The invariant of the block: core memory is canonical and lies below `IO_BASE` (20_memory.md R43), PSW bits 10:8
are 0 (10_state.md R29), the parameters are admitted (R43), a pending trap's record is as `raise` writes it (R197),
the bookkeeping of `TCACHE = ON` is empty with `TCACHE = OFF` (R75), and every device call went to a binding (R53). -/
def State.Inv (s : State) : Prop :=
  s.core.wf ∧ (∀ c ∈ s.core, c.1 < s.params.ioBase) ∧ s.psw &&& 0o003400 = 0 ∧ s.params.valid ∧
  (∀ t ∈ s.trap, t.wf) ∧ (s.params.tcache = false → s.thunks = { bound := [], overwritten := [] }) ∧
  ∀ c ∈ s.deviceLog, s.callFromBinding c

/-! ## The operand phase, as the rules write it -/

/-- The operand phase of an instruction that reads both operands has come to the values `v` and `d`, the destination's
locator and a state, in the statement order of 41_double_operand.md R103 under either `OPERAND_ORDER`. -/
def GetsOperands (sz : Size) (src dst : Operand) (s : State) (v d : Word) (dloc : Loc) (t : State) : Prop :=
  match s.params.operandOrder with
  | .srcFirst =>
    ∃ sloc s1 s2 s3, resolve src sz s = .ok sloc s1 ∧ readOp sloc sz s1 = .ok v s2 ∧
      resolve dst sz s2 = .ok dloc s3 ∧ readOp dloc sz s3 = .ok d t
  | .resolveBothFirst =>
    ∃ sloc s1 s2 s3, resolve src sz s = .ok sloc s1 ∧ resolve dst sz s1 = .ok dloc s2 ∧
      readOp sloc sz s2 = .ok v s3 ∧ readOp dloc sz s3 = .ok d t

/-- The operand phase of an instruction with one operand that it reads (42_single_operand.md R119). -/
def GetsOperand (sz : Size) (dst : Operand) (s : State) (d : Word) (loc : Loc) (t : State) : Prop :=
  ∃ s1, resolve dst sz s = .ok loc s1 ∧ readOp loc sz s1 = .ok d t

/-- The resolution of an operand, or the read after it, raises a trap that leaves `u` (42_single_operand.md R119). -/
def OperandTraps (sz : Size) (o : Operand) (s u : State) : Prop :=
  resolve o sz s = .trapped u ∨ ∃ loc t, resolve o sz s = .ok loc t ∧ readOp loc sz t = .trapped u

/-- The operand phase of an instruction that reads both operands raises its first trap, which leaves `u`, in the
statement order of 41_double_operand.md R103 under either `OPERAND_ORDER`. -/
def TwoOperandsTrap (sz : Size) (src dst : Operand) (s u : State) : Prop :=
  match s.params.operandOrder with
  | .srcFirst =>
    OperandTraps sz src s u ∨
      ∃ sloc s1 v s2, resolve src sz s = .ok sloc s1 ∧ readOp sloc sz s1 = .ok v s2 ∧ OperandTraps sz dst s2 u
  | .resolveBothFirst =>
    resolve src sz s = .trapped u ∨
      ∃ sloc s1, resolve src sz s = .ok sloc s1 ∧
        (resolve dst sz s1 = .trapped u ∨
          ∃ dloc s2, resolve dst sz s1 = .ok dloc s2 ∧
            (readOp sloc sz s2 = .trapped u ∨
              ∃ v s3, readOp sloc sz s2 = .ok v s3 ∧ readOp dloc sz s3 = .trapped u))

/-- The operand phase of MOV or MOVB raises its first trap, which leaves `u`: the destination is resolved and not read
(41_double_operand.md R105), under `SRC_FIRST` in the state with the new flags (R104). -/
def MoveTraps (sz : Size) (src dst : Operand) (s u : State) : Prop :=
  match s.params.operandOrder with
  | .srcFirst =>
    OperandTraps sz src s u ∨
      ∃ sloc s1 v s2, resolve src sz s = .ok sloc s1 ∧ readOp sloc sz s1 = .ok v s2 ∧
        resolve dst sz (s2.setCC (logicFlags sz v s2.cc)) = .trapped u
  | .resolveBothFirst =>
    resolve src sz s = .trapped u ∨
      ∃ sloc s1, resolve src sz s = .ok sloc s1 ∧
        (resolve dst sz s1 = .trapped u ∨
          ∃ dloc s2, resolve dst sz s1 = .ok dloc s2 ∧ readOp sloc sz s2 = .trapped u)

/-- MOV, or MOVB. -/
def moveOf (src dst : Operand) : Size → Instr
  | .word => .mov src dst
  | .byte => .movb src dst

/-- The two-operand instructions of a size that read both operands (41_double_operand.md R105). -/
def readersOfTwo (src dst : Operand) : Size → List Instr
  | .word => [.cmp src dst, .bit src dst, .bic src dst, .bis src dst, .add src dst, .sub src dst]
  | .byte => [.cmpb src dst, .bitb src dst, .bicb src dst, .bisb src dst]

/-- The instructions of a size that read one operand (42_single_operand.md R119; 45_register_ops.md R174). -/
def readersOfOne (r : Reg) (o : Operand) : Size → List Instr
  | .word => [.com o, .inc o, .dec o, .tst o, .ash r o, .mul r o]
  | .byte => [.comb o, .incb o, .decb o, .tstb o]

/-- A result's last operation ends in this state, completed or with a trap raised in it. -/
def Res.endsIn (r : Res Unit) (t : State) : Prop := r = .ok () t ∨ r = .trapped t

/-! ## Frames -/

/-- The registers a specifier's resolution may write: its own in modes 2 to 5, `pc` in modes 6 and 7 (20_memory.md
R71). -/
def touches (o : Operand) (r : Reg) : Prop :=
  match o.mode with
  | .register | .deferred => False
  | .autoInc | .autoIncDeferred | .autoDec | .autoDecDeferred => r = o.reg
  | .index | .indexDeferred => r = .pc

/-- The register a mode-0 destination names (20_memory.md R59). -/
def isDestReg (o : Operand) (r : Reg) : Prop := o.mode = .register ∧ r = o.reg

/-- Everything no instruction but RTI and RTT writes: PSW bits 15:4 (CM, PM, RS, PRI, T and the reserved bits), the
shadow bank, the stored stack pointers; and what none writes at all: the parameters, the bindings, the latch. -/
def SameControl (s t : State) : Prop :=
  t.psw &&& 0o177760 = s.psw &&& 0o177760 ∧ t.shadow = s.shadow ∧ t.spslot = s.spslot ∧ t.params = s.params ∧
    t.devices = s.devices ∧ t.latch = s.latch

/-- The trap controller is as before, unless the instruction has raised a fault of its own: then the record names
this instruction (60_exceptions.md R197). -/
def TrapKept (s t : State) : Prop :=
  t.trap = s.trap ∨
    ∃ k a, t.trap = some (TrapRecord.mk (.fault k) (vectorOf (.fault k)) s.latch.instAddr s.latch.opcode a)

/-- What a trap in resolving or reading operands leaves of a state: the PSW, memory, the shadow bank, the stored stack
pointers and every register outside `W`, those the specifiers may step (20_memory.md R52, R67). -/
def OperandTrapLeaves (W : Reg → Prop) (s t : State) : Prop :=
  t.psw = s.psw ∧ t.core = s.core ∧ t.shadow = s.shadow ∧ t.spslot = s.spslot ∧ ∀ r, ¬ W r → t.x r = s.x r

/-- What a trap in one operand's resolution or read leaves of a state. -/
def SourceTrapLeaves (o : Operand) (s t : State) : Prop := OperandTrapLeaves (touches o) s t

/-- What an instruction leaves unchanged beside flags and memory: every register outside `W`, all that `SameControl`
and `TrapKept` name; the log of device calls only grows, and the bookkeeping of `TCACHE = ON` only marks words stored
to. -/
def Kept (W : Reg → Prop) (s t : State) : Prop :=
  (∀ r, ¬ W r → t.x r = s.x r) ∧ SameControl s t ∧ TrapKept s t ∧ s.deviceLog <+: t.deviceLog ∧
    t.thunks.bound = s.thunks.bound ∧ (s.params.tcache = false → t.thunks = s.thunks)

/-- Every byte of core memory outside the `sz` bytes stored to reads as before; with nothing stored, every byte. -/
def BytesKept (stored : Option Word) (sz : Size) (s t : State) : Prop :=
  ∀ x : Nat, (∀ a, stored = some a → x < a.toNat ∨ a.toNat + sz.bytes ≤ x) → t.core.read x = s.core.read x

/-- The address a locator stores to. -/
def Loc.address : Loc → Option Word
  | .reg _ => none
  | .mem a => some a

/-- The address a two-operand instruction that reads its destination stores to. -/
def storedByTwo (sz : Size) (src dst : Operand) (s : State) : Option Word :=
  match twoOperands sz src dst s with
  | .ok (_, _, loc) _ => loc.address
  | .trapped _ => none
  | .stuck _ => none

/-- The address MOV (word) or MOVB (byte) stores to. -/
def storedByMove (sz : Size) (src dst : Operand) (s : State) : Option Word :=
  match moveOperands sz src dst (logicFlags sz) s with
  | .ok (_, loc) _ => loc.address
  | .trapped _ => none
  | .stuck _ => none

/-- The address a one-operand instruction that reads its destination stores to. -/
def storedByOne (sz : Size) (dst : Operand) (s : State) : Option Word :=
  match oneOperand sz dst s with
  | .ok (_, loc) _ => loc.address
  | .trapped _ => none
  | .stuck _ => none

/-- The address CLR (word) or CLRB (byte) stores to. -/
def storedByClear (sz : Size) (dst : Operand) (s : State) : Option Word :=
  match resolve dst sz (s.setCC clrFlags) with
  | .ok loc _ => loc.address
  | .trapped _ => none
  | .stuck _ => none

/-- The address JSR pushes to: two below the stack pointer that the target's resolution left (44_subroutine.md
R170). -/
def storedByJsr (dst : Operand) (s : State) : Option Word :=
  match resolve dst .word s with
  | .ok (.mem _) u => some (u.x .sp - 2)
  | .ok (.reg _) _ => none
  | .trapped _ => none
  | .stuck _ => none

/-! ## Words and causes -/

/-- The words of 30_encoding.md R97, range by range. -/
def UnknownWord (w : Word) : Prop :=
  (0o000007 ≤ w.toNat ∧ w.toNat ≤ 0o000077) ∨ (0o000210 ≤ w.toNat ∧ w.toNat ≤ 0o000227) ∨
  (0o007000 ≤ w.toNat ∧ w.toNat ≤ 0o007777) ∨ (0o075000 ≤ w.toNat ∧ w.toNat ≤ 0o076777) ∨
  (0o107000 ≤ w.toNat ∧ w.toNat ≤ 0o107777) ∨ (0o170000 ≤ w.toNat ∧ w.toNat ≤ 0o177777)

/-- An opcode word whose execution raises ILLEGAL_INSTRUCTION in this state's mode (60_exceptions.md R193). -/
def IllegalHere (s : State) (w : Word) : Prop :=
  UnknownWord w ∨
    ∃ i, decode w = .ok i ∧
      (i.isStub = true ∨ i.wellFormed = false ∨ (i = .halt ∨ i = .rti ∨ i = .rtt) ∧ ¬ s.kernel)

/-- An address the access controller hands to a device (20_memory.md R53). -/
def State.reachesDevice (s : State) (a : Word) : Prop := ¬ s.inCore a ∧ ∃ b, s.deviceLookup a = some b

/-- The table of 60_exceptions.md R193: what a trap record's kind says of its cause and its `fault_addr`. A device may
return any fault kind, with the device address (20_memory.md R54). -/
def TrapCause (s : State) (r : TrapRecord) : Prop :=
  match r.kind with
  | .fault .oddAddress => ∃ a, r.faultAddr = some a ∧ (a.getLsbD 0 = true ∨ s.reachesDevice a)
  | .fault .nonexistentAddress =>
    ∃ a, r.faultAddr = some a ∧ (¬ s.inCore a ∧ s.deviceLookup a = none ∨ s.reachesDevice a)
  | .fault .illegalInstruction =>
    r.faultAddr = none ∧ (∃ w, r.opcode = some w ∧ IllegalHere s w) ∨ ∃ a, r.faultAddr = some a ∧ s.reachesDevice a
  | .fault .reservedInstruction => ∃ a, r.faultAddr = some a ∧ s.reachesDevice a
  | .halt => r.faultAddr = none ∧ r.opcode = some 0o000000 ∧ s.kernel
  | .wait => r.faultAddr = none ∧ r.opcode = some 0o000001

/-! ## Independence of the mode -/

/-- The state with other values of all that a mode or bank change selects: PSW bits 15:4 of `p`, a shadow bank and
stored stack pointers. The condition codes and the live registers stay. -/
def State.withControl (s : State) (p : Word) (b : Bank) (q : SpSlots) : State :=
  { s with psw := p &&& 0o177760 ||| s.cc.toWord, shadow := b, spslot := q }

/-- An outcome with its next state changed. -/
def onNext (f : State → State) : Host.Outcome State Fault Refusal → Host.Outcome State Fault Refusal
  | .next s => .next (f s)
  | .fault e => .fault e
  | .refused e => .refused e

end Sys2Proof.Machine
end

