-- ==== Sys2Proof/Certificates/Slice0/Obligations.lean ====
section
/-! DEFINITION. The statements for the provers, in the order of OBLIGATIONS.json. Each names the rule of the spec it
formalises. A statement of a result is written from the rule's own pseudocode: the values its earlier operations come
to are hypotheses, its conclusion is the next state `exec` answers. -/

open Sys2Proof Sys2Proof.Machine

/-! ## Encoding -/

/-- Decoding is the inverse of encoding, for every instruction with every operand at every value, from the word and
from its bytes (30_encoding.md R78 to R86, R92, R96; 20_memory.md R47). -/
def Obligations.DecodeEncodeAgree : Prop :=
  ∀ i : Instr, decode (encode i) = .ok i ∧
    ∀ rest, decodeBytes (lowByte (encode i) :: highByte (encode i) :: rest) = .ok (i, rest)

/-- A decoded word is the encoding of what it decodes to, so no two instructions share a word and no bit of a word is
dropped (30_encoding.md R92, R93). -/
def Obligations.EncodeDecodeAgree : Prop :=
  ∀ (w : Word) (i : Instr), decode w = .ok i → encode i = w

/-- The words that match no row are exactly the ranges of R97, and a step that fetches one raises ILLEGAL_INSTRUCTION
with no operand access, `pc` at the word's address + 2 (46_system.md R192). The list of ranges is R97 of 30_encoding.md,
which the spec marks as derived from R92. What the step does beside that with `TCACHE = ON` is the model's choice
(assumption 8). -/
def Obligations.UnknownWordsTrap : Prop :=
  (∀ w : Word, decode w = .error (.unknownOpcode w) ↔ UnknownWord w) ∧
  (∀ w : Word, (∃ i, decode w = .ok i) ↔ ¬ UnknownWord w) ∧
  ∀ (s u : State) (w : Word), s.trap = none → ¬ s.stale s.pc → s.fetchOpcode = .ok w u → UnknownWord w →
    step s = .next ((u.noteExecuted s.pc).raise (.fault .illegalInstruction) none) ∧ u.pc = s.pc + 2

/-- One word of each format, written out from the encodings of 30_encoding.md R79 to R86 and R96. -/
def Obligations.DecodeSampleWords : Prop :=
  decode 0b0001_010_001_000_010 = .ok (.mov ⟨.autoInc, .r1⟩ ⟨.register, .r2⟩) ∧
  decode 0b1110_000_001_110_000 = .ok (.sub ⟨.register, .r1⟩ ⟨.index, .r0⟩) ∧
  decode 0b0000100_111_011_111 = .ok (.jsr .pc ⟨.autoIncDeferred, .pc⟩) ∧
  decode 0b0111010_000_010_111 = .ok (.ash .r0 ⟨.autoInc, .pc⟩) ∧
  decode 0b1000101010_100_110 = .ok (.incb ⟨.autoDec, .sp⟩) ∧
  decode 0b00000010_11111111 = .ok (.bne 0xFF) ∧
  decode 0b0000000010000_101 = .ok (.rts .r5) ∧
  decode 0b00000000101_1_0001 = .ok (.ccode true false false false true) ∧
  decode 0b0000000000000010 = .ok .rti ∧
  decode 0b0111100_010_000_011 = .ok (.xor .r2 ⟨.register, .r3⟩) ∧
  decode 0b10001001_00000111 = .ok (.trap 7) ∧
  decode 0b0000110100_010011 = .ok (.mark 0o23) ∧
  decode 0b0111111_100_000101 = .ok (.sob .r4 5) ∧
  decode 0b1111_000_000_000_000 = .error (.unknownOpcode 0o170000)

/-- Every word whose top four bits are the `mov` class code decodes to MOV, and every one whose top four bits are 9 to
MOVB, with the specifiers of R78 (30_encoding.md R95). -/
def Obligations.MovClassDecodesToMov : Prop :=
  ∀ w : Word,
    let src : Operand := ⟨Mode.ofBits (w.extractLsb' 9 3).toNat, Reg.ofBits (w.extractLsb' 6 3).toNat⟩
    let dst : Operand := ⟨Mode.ofBits (w.extractLsb' 3 3).toNat, Reg.ofBits (w.extractLsb' 0 3).toNat⟩
    (w.extractLsb' 12 4 = 1 → decode w = .ok (.mov src dst)) ∧
    (w.extractLsb' 12 4 = 9 → decode w = .ok (.movb src dst))

/-! ## The step -/

/-- A step with no trap pending runs the instruction its opcode fetch decodes to: `pc` has moved past the opcode word
and the latch holds the instruction's address and opcode (70_reset_and_hazards.md R214). The second clause names the
state for a fetch from core memory. With `TCACHE = ON` the step notes the word as executed (20_memory.md R75,
assumption 8); with `TCACHE = OFF` it adds nothing. -/
def Obligations.StepRunsDecoded : Prop :=
  (∀ (s u : State) (w : Word) (i : Instr), s.trap = none → ¬ s.stale s.pc → s.fetchOpcode = .ok w u →
    decode w = .ok i → step s = exec i (u.noteExecuted s.pc)) ∧
  (∀ (s : State) (i : Instr), s.trap = none → ¬ s.stale s.pc → s.pc.getLsbD 0 = false → s.inCore s.pc →
    let w : Word := s.core.read (s.pc.toNat + 1) ++ s.core.read s.pc.toNat
    decode w = .ok i →
    step s = exec i
      ({ s with pc := s.pc + 2, latch := { instAddr := s.pc, opcode := some w } }.noteExecuted s.pc)) ∧
  (∀ (s : State) (a : Word), s.params.tcache = false → s.noteExecuted a = s)

/-- `Fetch` reads the word at `pc` and then advances `pc`; a trap in the read leaves `pc`. A trap in the opcode fetch
ends the step, and the record of an odd `pc` has no opcode (20_memory.md R56; 60_exceptions.md R198). -/
def Obligations.FetchAdvancesPc : Prop :=
  (∀ (s t : State) (w : Word), s.memRead s.pc .word = .ok w t → s.fetch = .ok w (t.setX .pc (s.pc + 2))) ∧
  (∀ s t : State, s.memRead s.pc .word = .trapped t → s.fetch = .trapped t ∧ t.pc = s.pc) ∧
  (∀ s t : State, s.trap = none → s.fetchOpcode = .trapped t → step s = .next t) ∧
  (∀ s : State, s.trap = none → s.pc.getLsbD 0 = true →
    step s = .next
      { s with
        latch := { instAddr := s.pc, opcode := none },
        trap := some
          { kind := .fault .oddAddress, vector := some 0o000004, instAddr := s.pc, opcode := none,
            faultAddr := some s.pc } })

/-- With a trap pending `Step` executes nothing and changes nothing, and `Run` returns at once with it
(60_exceptions.md R199). That `Step` answers the unchanged state as a next state is the model's form of the report
(assumption 4). -/
def Obligations.PendingTrapStopsExecution : Prop :=
  ∀ (s : State) (r : TrapRecord), s.trap = some r →
    step s = .next s ∧ (∀ fuel, run fuel s = .trapped s) ∧ s.report = some r

/-- With `TCACHE = ON`: a word executed is remembered, a store by the program to a remembered word marks it, and a
marked word is refused; with `TCACHE = OFF` no step is refused (20_memory.md R75). What counts as a store to the word
is the model's reading (assumption 8). -/
def Obligations.TranslatedWordsRefusedWhenStale : Prop :=
  (∀ s u : State, ∀ w : Word, s.trap = none → s.params.tcache = true → s.fetchOpcode = .ok w u →
    s.pc ∈ s.thunks.overwritten → step s = .refused .staleTranslation) ∧
  (∀ s u t : State, ∀ w : Word, s.trap = none → s.params.tcache = true → s.fetchOpcode = .ok w u →
    step s = .next t → s.pc ∈ t.thunks.bound) ∧
  (∀ (s t : State) (a v : Word) (sz : Size), s.params.tcache = true → s.memWrite a sz v = .ok () t →
    wordAddr a ∈ s.thunks.bound → wordAddr a ∈ t.thunks.overwritten) ∧
  (∀ (s : State) (r : Refusal), s.params.tcache = false → step s ≠ .refused r)

/-! ## Reset and the invariant -/

/-- At reset every register, shadow register, SP slot and the PSW is 0, nothing is pending and every byte of core
memory is 0; `RESET_REGS` gives other register values instead; there is no reset instruction
(70_reset_and_hazards.md R211). That a PSW value of `RESET_REGS` keeps bits 10:8 at 0 is the model's choice
(assumption 12), from 10_state.md R29. -/
def Obligations.ResetStateIsZero : Prop :=
  (∀ r, State.reset.x r = 0) ∧ State.reset.shadow = Bank.zero ∧ (∀ m, State.reset.spslot.get m = 0) ∧
  State.reset.psw = 0 ∧ State.reset.trap = none ∧ (∀ a, State.reset.core.read a = 0) ∧ State.reset.kernel ∧
  bankOf State.reset.psw = false ∧ State.reset.cc = ⟨false, false, false, false⟩ ∧
  (∀ (p : Params) (l : List Binding) (g : ResetRegs),
    let s := State.create p l g
    s.live = g.live ∧ s.shadow = g.shadow ∧ s.sp = g.sp ∧ s.spslot = g.spslot ∧ s.pc = g.pc ∧
      s.psw = g.psw &&& pswMask ∧ s.trap = none ∧ (∀ a, s.core.read a = 0) ∧ s.params = p ∧ s.devices = l) ∧
  ∀ s : State, exec .reset s = .next (s.raise (.fault .illegalInstruction) none)

/-- The invariant holds at reset, for every admitted parameter value, device list and `RESET_REGS`
(20_memory.md R43; 10_state.md R29; 70_reset_and_hazards.md R211). It holds for every PSW value of `RESET_REGS` because
the model drops its bits 10:8 (assumption 12). -/
def Obligations.ResetMeetsInvariant : Prop :=
  State.reset.Inv ∧
    ∀ (p : Params) (l : List Binding) (g : ResetRegs), p.valid → (State.create p l g).Inv

/-- Every step keeps the invariant: core memory canonical and below `IO_BASE`, PSW bits 10:8 zero, the trap record as
`raise` writes it, every device call to a registered binding (20_memory.md R43, R53; 10_state.md R29; 60_exceptions.md
R197). -/
def Obligations.StepKeepsInvariant : Prop :=
  ∀ s t : State, s.Inv → step s = .next t → t.Inv

/-! ## Traps and privilege -/

/-- The vector table of R196: the values, the strings, and that the mapping is one-to-one, with the OPEN
vector any value distinct from the other three (60_exceptions.md R196; assumption 6). -/
def Obligations.VectorsAreOneToOne : Prop :=
  vectorOf (.fault .oddAddress) = some 0o000004 ∧ vectorOf (.fault .illegalInstruction) = some 0o000010 ∧
  vectorOf (.fault .nonexistentAddress) = some 0o000250 ∧
  (∃ v, vectorOf (.fault .reservedInstruction) = some v ∧ v ≠ 0o000004 ∧ v ≠ 0o000010 ∧ v ≠ 0o000250) ∧
  vectorOf .halt = none ∧ vectorOf .wait = none ∧
  (∀ (k l : TrapKind) (v : Word), vectorOf k = some v → vectorOf l = some v → k = l) ∧
  describe (.fault .oddAddress) = "odd address" ∧ describe (.fault .illegalInstruction) = "illegal instruction" ∧
  describe (.fault .nonexistentAddress) = "nonexistent address" ∧
  describe (.fault .reservedInstruction) = "reserved instruction" ∧ describe .halt = "halt" ∧ describe .wait = "wait"

/-- Raising a trap writes the record of R197 from the latch and changes nothing else: no push, no vector read, no PSW,
mode or `pc` change; no later operation of the instruction runs (60_exceptions.md R197, R201). -/
def Obligations.RaiseWritesRecordOnly : Prop :=
  (∀ (s : State) (k : TrapKind) (a : Option Word),
    (s.raise k a).trap =
      some
        { kind := k, vector := vectorOf k, instAddr := s.latch.instAddr, opcode := s.latch.opcode, faultAddr := a } ∧
    { s.raise k a with trap := s.trap } = s) ∧
  ∀ (s : State) (later : Unit → State → Res Unit),
    (Res.trapped s).bind later = .trapped s ∧ (Res.trapped (α := Unit) s).outcome = .next s

/-- Every trap a step raises has a cause of the table of R193, with that table's `fault_addr`, names the address the
opcode was fetched from and carries the opcode fetched, or none when the fetch itself trapped (60_exceptions.md R193).
-/
def Obligations.TrapsHaveTheirCauses : Prop :=
  ∀ (s t : State) (r : TrapRecord), s.trap = none → step s = .next t → t.trap = some r →
    TrapCause s r ∧ r.instAddr = s.pc ∧ r.vector = vectorOf r.kind ∧
    (r.opcode = none → s.fetchOpcode = .trapped t) ∧ ∀ w, r.opcode = some w → ∃ u, s.fetchOpcode = .ok w u

/-- No instruction but HALT, RTI and RTT depends on the mode: with any other CM, PM, RS, PRI and T, any other shadow
bank and any other stored stack pointers, it does the same and leaves them alone (60_exceptions.md R204; 10_state.md
R33, R34). That a device answers the two runs alike is the model's choice (assumption 5): its answer is a function of
the calls made, so where a device is bound this compares two runs in which the device answers alike. -/
def Obligations.OnlyThreeModeChecks : Prop :=
  ∀ (i : Instr) (s : State) (p : Word) (b : Bank) (q : SpSlots), i ≠ .halt → i ≠ .rti → i ≠ .rtt →
    exec i (s.withControl p b q) = onNext (fun t => t.withControl p b q) (exec i s)

/-- Only a kernel-mode RTI or RTT changes CM, PM, RS, PRI or T, the shadow bank or a stored stack pointer, and no step
changes the device bindings or the parameters (46_system.md R184; 10_state.md R22, R23; 20_memory.md R53). -/
def Obligations.ControlChangesOnlyByReturn : Prop :=
  ∀ s t : State, step s = .next t →
    t.devices = s.devices ∧ t.params = s.params ∧
    ((¬ s.kernel ∨ ∀ w u, s.fetchOpcode = .ok w u → w ≠ 0o000002 ∧ w ≠ 0o000006) →
      t.psw &&& 0o177760 = s.psw &&& 0o177760 ∧ t.shadow = s.shadow ∧ t.spslot = s.spslot)

/-- With no device bound every instruction answers a next state in every state, whatever its operands; no instruction
is refused; and with no device bound and `TCACHE = OFF` every step answers a next state. A trap taken is a next state
too (60_exceptions.md R197), and so is a step with a trap pending (assumption 4). -/
def Obligations.EveryInstructionAnswers : Prop :=
  (∀ (i : Instr) (s : State), s.devices = [] → ∃ t, exec i s = .next t) ∧
  (∀ (i : Instr) (s : State) (r : Refusal), exec i s ≠ .refused r) ∧
  ∀ s : State, s.devices = [] → s.params.tcache = false → ∃ t, step s = .next t

/-! ## Two-operand instructions -/

/-- MOV (41_double_operand.md R107), in the default `OPERAND_ORDER` of its pseudocode: flags from the source value
before the destination is resolved, C unchanged, then the write. A trap in the source leaves the flags, memory and
every register but the one the source steps; a trap in the destination's resolution leaves the new flags. -/
def Obligations.MovResult : Prop :=
  ∀ (src dst : Operand) (s : State), s.params.operandOrder = .srcFirst →
    (∀ w, resolve src .word s = .trapped w →
      exec (.mov src dst) s = .next w ∧ SourceTrapLeaves src s w) ∧
    ∀ sloc s1, resolve src .word s = .ok sloc s1 →
      (∀ w, readOp sloc .word s1 = .trapped w →
        exec (.mov src dst) s = .next w ∧ SourceTrapLeaves src s w) ∧
      ∀ v s2, readOp sloc .word s1 = .ok v s2 →
        let s3 := s2.setCC { n := v.getLsbD 15, z := decide (v = 0), v := false, c := s2.cc.c }
        (∀ w, resolve dst .word s3 = .trapped w → exec (.mov src dst) s = .next w) ∧
        ∀ dloc s4, resolve dst .word s3 = .ok dloc s4 →
          ∀ w, (writeOp dloc .word v s4).endsIn w → exec (.mov src dst) s = .next w

/-- MOVB (41_double_operand.md R108), in the default `OPERAND_ORDER`: as MOV on a byte; a register destination takes
the sign-extended byte whole. -/
def Obligations.MovbResult : Prop :=
  ∀ (src dst : Operand) (s : State), s.params.operandOrder = .srcFirst →
    (∀ w, resolve src .byte s = .trapped w →
      exec (.movb src dst) s = .next w ∧ SourceTrapLeaves src s w) ∧
    ∀ sloc s1, resolve src .byte s = .ok sloc s1 →
      (∀ w, readOp sloc .byte s1 = .trapped w →
        exec (.movb src dst) s = .next w ∧ SourceTrapLeaves src s w) ∧
      ∀ (b : Byte) (s2 : State), readOp sloc .byte s1 = .ok (ofByte b) s2 →
        let s3 := s2.setCC { n := b.getLsbD 7, z := decide (b = 0), v := false, c := s2.cc.c }
        (∀ w, resolve dst .byte s3 = .trapped w → exec (.movb src dst) s = .next w) ∧
        (∀ r s4, resolve dst .byte s3 = .ok (.reg r) s4 →
          exec (.movb src dst) s = .next (s4.setX r (b.signExtend 16))) ∧
        ∀ a s4, resolve dst .byte s3 = .ok (.mem a) s4 →
          ∀ w, (s4.memWrite a .byte (ofByte b)).endsIn w → exec (.movb src dst) s = .next w

/-- MOV and MOVB with `OPERAND_ORDER = RESOLVE_BOTH_FIRST` (41_double_operand.md R103): both resolutions, the read,
then the flags and the write. Where the flags fall is the model's reading of R103 beside R104 (assumption 9): a trap in
either resolution or in the source's read ends the instruction with the old flags. -/
def Obligations.MoveResolvesBothFirst : Prop :=
  ∀ (src dst : Operand) (s : State), s.params.operandOrder = .resolveBothFirst →
    (∀ (sz : Size) (u : State),
      (resolve src sz s = .trapped u ∨
        ∃ sloc s1, resolve src sz s = .ok sloc s1 ∧
          (resolve dst sz s1 = .trapped u ∨
            ∃ dloc s2, resolve dst sz s1 = .ok dloc s2 ∧ readOp sloc sz s2 = .trapped u)) →
      exec (moveOf src dst sz) s = .next u ∧ OperandTrapLeaves (fun r => touches src r ∨ touches dst r) s u) ∧
    (∀ sloc dloc s1 s2 v s3, resolve src .word s = .ok sloc s1 → resolve dst .word s1 = .ok dloc s2 →
      readOp sloc .word s2 = .ok v s3 →
      ∀ w, (writeOp dloc .word v
          (s3.setCC { n := v.getLsbD 15, z := decide (v = 0), v := false, c := s3.cc.c })).endsIn w →
        exec (.mov src dst) s = .next w) ∧
    ∀ sloc dloc s1 s2 (b : Byte) s3, resolve src .byte s = .ok sloc s1 → resolve dst .byte s1 = .ok dloc s2 →
      readOp sloc .byte s2 = .ok (ofByte b) s3 →
      let s4 := s3.setCC { n := b.getLsbD 7, z := decide (b = 0), v := false, c := s3.cc.c }
      (∀ r, dloc = .reg r → exec (.movb src dst) s = .next (s4.setX r (b.signExtend 16))) ∧
      ∀ a w, dloc = .mem a → (s4.memWrite a .byte (ofByte b)).endsIn w → exec (.movb src dst) s = .next w

/-- CMP and CMPB write the flags of source minus destination, and nothing else (41_double_operand.md R109, R110). -/
def Obligations.CompareResults : Prop :=
  (∀ (src dst : Operand) (s : State) (v d : Word) (loc : Loc) (t : State),
    GetsOperands .word src dst s v d loc t →
    let r := v - d
    exec (.cmp src dst) s =
      .next
        (t.setCC
          { n := r.getLsbD 15, z := decide (r = 0),
            v := decide (v.getLsbD 15 ≠ d.getLsbD 15 ∧ r.getLsbD 15 ≠ v.getLsbD 15),
            c := decide (v.toNat < d.toNat) })) ∧
  ∀ (src dst : Operand) (s : State) (v d : Byte) (loc : Loc) (t : State),
    GetsOperands .byte src dst s (ofByte v) (ofByte d) loc t →
    let r := v - d
    exec (.cmpb src dst) s =
      .next
        (t.setCC
          { n := r.getLsbD 7, z := decide (r = 0),
            v := decide (v.getLsbD 7 ≠ d.getLsbD 7 ∧ r.getLsbD 7 ≠ v.getLsbD 7),
            c := decide (v.toNat < d.toNat) })

/-- BIT and BITB write the flags of `s & d`, C unchanged, and nothing else (41_double_operand.md R111, R112). -/
def Obligations.BitTestResults : Prop :=
  (∀ (src dst : Operand) (s : State) (v d : Word) (loc : Loc) (t : State),
    GetsOperands .word src dst s v d loc t →
    let r := v &&& d
    exec (.bit src dst) s =
      .next (t.setCC { n := r.getLsbD 15, z := decide (r = 0), v := false, c := t.cc.c })) ∧
  ∀ (src dst : Operand) (s : State) (v d : Byte) (loc : Loc) (t : State),
    GetsOperands .byte src dst s (ofByte v) (ofByte d) loc t →
    let r := v &&& d
    exec (.bitb src dst) s =
      .next (t.setCC { n := r.getLsbD 7, z := decide (r = 0), v := false, c := t.cc.c })

/-- BIC and BICB write `~s & d` after its flags, C unchanged (41_double_operand.md R113, R114). -/
def Obligations.BitClearResults : Prop :=
  (∀ (src dst : Operand) (s : State) (v d : Word) (loc : Loc) (t w : State),
    GetsOperands .word src dst s v d loc t →
    let r := ~~~v &&& d
    (writeOp loc .word r
      (t.setCC { n := r.getLsbD 15, z := decide (r = 0), v := false, c := t.cc.c })).endsIn w →
    exec (.bic src dst) s = .next w) ∧
  ∀ (src dst : Operand) (s : State) (v d : Byte) (loc : Loc) (t w : State),
    GetsOperands .byte src dst s (ofByte v) (ofByte d) loc t →
    let r := ~~~v &&& d
    (writeOp loc .byte (ofByte r)
      (t.setCC { n := r.getLsbD 7, z := decide (r = 0), v := false, c := t.cc.c })).endsIn w →
    exec (.bicb src dst) s = .next w

/-- BIS and BISB write `s | d` after its flags, C unchanged (41_double_operand.md R115, R116). -/
def Obligations.BitSetResults : Prop :=
  (∀ (src dst : Operand) (s : State) (v d : Word) (loc : Loc) (t w : State),
    GetsOperands .word src dst s v d loc t →
    let r := v ||| d
    (writeOp loc .word r
      (t.setCC { n := r.getLsbD 15, z := decide (r = 0), v := false, c := t.cc.c })).endsIn w →
    exec (.bis src dst) s = .next w) ∧
  ∀ (src dst : Operand) (s : State) (v d : Byte) (loc : Loc) (t w : State),
    GetsOperands .byte src dst s (ofByte v) (ofByte d) loc t →
    let r := v ||| d
    (writeOp loc .byte (ofByte r)
      (t.setCC { n := r.getLsbD 7, z := decide (r = 0), v := false, c := t.cc.c })).endsIn w →
    exec (.bisb src dst) s = .next w

/-- ADD (41_double_operand.md R117). -/
def Obligations.AddResult : Prop :=
  ∀ (src dst : Operand) (s : State) (v d : Word) (loc : Loc) (t w : State),
    GetsOperands .word src dst s v d loc t →
    let sum := v.toNat + d.toNat
    let r := BitVec.ofNat 16 sum
    (writeOp loc .word r
      (t.setCC
        { n := r.getLsbD 15, z := decide (r = 0),
          v := decide (v.getLsbD 15 = d.getLsbD 15 ∧ r.getLsbD 15 ≠ v.getLsbD 15),
          c := decide (2 ^ 16 ≤ sum) })).endsIn w →
    exec (.add src dst) s = .next w

/-- SUB: destination minus source (41_double_operand.md R118). -/
def Obligations.SubResult : Prop :=
  ∀ (src dst : Operand) (s : State) (v d : Word) (loc : Loc) (t w : State),
    GetsOperands .word src dst s v d loc t →
    let r := d - v
    (writeOp loc .word r
      (t.setCC
        { n := r.getLsbD 15, z := decide (r = 0),
          v := decide (v.getLsbD 15 ≠ d.getLsbD 15 ∧ r.getLsbD 15 = v.getLsbD 15),
          c := decide (d.toNat < v.toNat) })).endsIn w →
    exec (.sub src dst) s = .next w

/-- The flags against exact integer arithmetic (00_scope.md R14): the result is the exact one modulo the operand size,
V says that the exact signed result does not fit, C is the carry out of an addition and the borrow of a subtraction. -/
def Obligations.FlagsAgreeWithExactArithmetic : Prop :=
  (∀ (v d : Word) (cc : CC),
    (addResult v d).toNat = (v.toNat + d.toNat) % 2 ^ 16 ∧
    (addFlags v d cc).c = decide (2 ^ 16 ≤ v.toNat + d.toNat) ∧
    (addFlags v d cc).v = decide (v.toInt + d.toInt < -2 ^ 15 ∨ 2 ^ 15 ≤ v.toInt + d.toInt)) ∧
  (∀ (v d : Word) (cc : CC),
    (diff .word d v).toInt = (d.toInt - v.toInt).bmod (2 ^ 16) ∧
    (subFlags v d cc).c = decide (d.toNat < v.toNat) ∧
    (subFlags v d cc).v = decide (d.toInt - v.toInt < -2 ^ 15 ∨ 2 ^ 15 ≤ d.toInt - v.toInt)) ∧
  (∀ (v d : Word) (cc : CC),
    (cmpFlags .word v d cc).c = decide (v.toNat < d.toNat) ∧
    (cmpFlags .word v d cc).v = decide (v.toInt - d.toInt < -2 ^ 15 ∨ 2 ^ 15 ≤ v.toInt - d.toInt)) ∧
  (∀ (v d : Byte) (cc : CC),
    (cmpFlags .byte (ofByte v) (ofByte d) cc).c = decide (v.toNat < d.toNat) ∧
    (cmpFlags .byte (ofByte v) (ofByte d) cc).v =
      decide (v.toInt - d.toInt < -2 ^ 7 ∨ 2 ^ 7 ≤ v.toInt - d.toInt)) ∧
  (∀ (d : Word) (cc : CC),
    (incFlags .word d cc).v = decide (2 ^ 15 ≤ d.toInt + 1) ∧
    (decFlags .word d cc).v = decide (d.toInt - 1 < -2 ^ 15)) ∧
  ∀ (d : Byte) (cc : CC),
    (incFlags .byte (ofByte d) cc).v = decide (2 ^ 7 ≤ d.toInt + 1) ∧
    (decFlags .byte (ofByte d) cc).v = decide (d.toInt - 1 < -2 ^ 7)

/-! ## One-operand instructions -/

/-- CLR and CLRB: flags first, then the resolution, then the write of 0; the destination is not read, and a trap in
the resolution leaves the new flags (42_single_operand.md R120, R121). -/
def Obligations.ClearResults : Prop :=
  ∀ (dst : Operand) (s : State),
    let u := s.setCC { n := false, z := true, v := false, c := false }
    (∀ loc t w, resolve dst .word u = .ok loc t → (writeOp loc .word 0 t).endsIn w →
      exec (.clr dst) s = .next w) ∧
    (∀ w, resolve dst .word u = .trapped w → exec (.clr dst) s = .next w) ∧
    (∀ loc t w, resolve dst .byte u = .ok loc t → (writeOp loc .byte 0 t).endsIn w →
      exec (.clrb dst) s = .next w) ∧
    ∀ w, resolve dst .byte u = .trapped w → exec (.clrb dst) s = .next w

/-- COM and COMB: the complement, V = 0 and C = 1 (42_single_operand.md R122, R123). -/
def Obligations.ComplementResults : Prop :=
  (∀ (dst : Operand) (s : State) (d : Word) (loc : Loc) (t w : State), GetsOperand .word dst s d loc t →
    let r := ~~~d
    (writeOp loc .word r
      (t.setCC { n := r.getLsbD 15, z := decide (r = 0), v := false, c := true })).endsIn w →
    exec (.com dst) s = .next w) ∧
  ∀ (dst : Operand) (s : State) (d : Byte) (loc : Loc) (t w : State), GetsOperand .byte dst s (ofByte d) loc t →
    let r := ~~~d
    (writeOp loc .byte (ofByte r)
      (t.setCC { n := r.getLsbD 7, z := decide (r = 0), v := false, c := true })).endsIn w →
    exec (.comb dst) s = .next w

/-- INC and INCB: V exactly at 0o100000 or 0o200, C unchanged (42_single_operand.md R124, R125). -/
def Obligations.IncrementResults : Prop :=
  (∀ (dst : Operand) (s : State) (d : Word) (loc : Loc) (t w : State), GetsOperand .word dst s d loc t →
    let r := d + 1
    (writeOp loc .word r
      (t.setCC
        { n := r.getLsbD 15, z := decide (r = 0), v := decide (r = 0o100000), c := t.cc.c })).endsIn w →
    exec (.inc dst) s = .next w) ∧
  ∀ (dst : Operand) (s : State) (d : Byte) (loc : Loc) (t w : State), GetsOperand .byte dst s (ofByte d) loc t →
    let r := d + 1
    (writeOp loc .byte (ofByte r)
      (t.setCC { n := r.getLsbD 7, z := decide (r = 0), v := decide (r = 0o200), c := t.cc.c })).endsIn w →
    exec (.incb dst) s = .next w

/-- DEC and DECB: V exactly at 0o077777 or 0o177, C unchanged (42_single_operand.md R126, R127). -/
def Obligations.DecrementResults : Prop :=
  (∀ (dst : Operand) (s : State) (d : Word) (loc : Loc) (t w : State), GetsOperand .word dst s d loc t →
    let r := d - 1
    (writeOp loc .word r
      (t.setCC
        { n := r.getLsbD 15, z := decide (r = 0), v := decide (r = 0o077777), c := t.cc.c })).endsIn w →
    exec (.dec dst) s = .next w) ∧
  ∀ (dst : Operand) (s : State) (d : Byte) (loc : Loc) (t w : State), GetsOperand .byte dst s (ofByte d) loc t →
    let r := d - 1
    (writeOp loc .byte (ofByte r)
      (t.setCC { n := r.getLsbD 7, z := decide (r = 0), v := decide (r = 0o177), c := t.cc.c })).endsIn w →
    exec (.decb dst) s = .next w

/-- TST and TSTB write flags only, V = 0 and C = 0 (42_single_operand.md R128, R129). -/
def Obligations.TestResults : Prop :=
  (∀ (dst : Operand) (s : State) (d : Word) (loc : Loc) (t : State), GetsOperand .word dst s d loc t →
    exec (.tst dst) s =
      .next (t.setCC { n := d.getLsbD 15, z := decide (d = 0), v := false, c := false })) ∧
  ∀ (dst : Operand) (s : State) (d : Byte) (loc : Loc) (t : State), GetsOperand .byte dst s (ofByte d) loc t →
    exec (.tstb dst) s = .next (t.setCC { n := d.getLsbD 7, z := decide (d = 0), v := false, c := false })

/-- The first trap in resolving or reading an instruction's operands ends it in the state that trap left, under either
`OPERAND_ORDER` (41_double_operand.md R103, R106; 42_single_operand.md R119; 44_subroutine.md R170;
45_register_ops.md R174; 60_exceptions.md R198). Where no flag is written before the trap, it leaves the flags, memory
and every register but those the specifiers step (20_memory.md R52, R67). -/
def Obligations.OperandTrapEndsInstruction : Prop :=
  (∀ (sz : Size) (src dst : Operand) (s u : State), TwoOperandsTrap sz src dst s u →
    (∀ i ∈ readersOfTwo src dst sz, exec i s = .next u) ∧
    OperandTrapLeaves (fun r => touches src r ∨ touches dst r) s u) ∧
  (∀ (sz : Size) (src dst : Operand) (s u : State), MoveTraps sz src dst s u →
    exec (moveOf src dst sz) s = .next u ∧ u.core = s.core ∧
    ∀ r, ¬ touches src r → ¬ touches dst r → u.x r = s.x r) ∧
  (∀ (sz : Size) (r : Reg) (o : Operand) (s u : State), OperandTraps sz o s u →
    (∀ i ∈ readersOfOne r o sz, exec i s = .next u) ∧ SourceTrapLeaves o s u) ∧
  (∀ (o : Operand) (s u : State),
    let t := s.setCC { n := false, z := true, v := false, c := false }
    (resolve o .word t = .trapped u → exec (.clr o) s = .next u ∧ SourceTrapLeaves o t u) ∧
    (resolve o .byte t = .trapped u → exec (.clrb o) s = .next u ∧ SourceTrapLeaves o t u)) ∧
  ∀ (r : Reg) (o : Operand) (s u : State), resolve o .word s = .trapped u →
    exec (.jsr r o) s = .next u ∧ SourceTrapLeaves o s u

/-! ## Branches -/

/-- BR, and the branches on one flag: taken, `pc` is the target; not taken, nothing changes (43_branches.md R155 to
R157, R162, R163, R166 to R169). -/
def Obligations.FlagBranches : Prop :=
  ∀ (off : BitVec 8) (s : State),
    let goes (taken : Bool) : Host.Outcome State Fault Refusal :=
      .next (if taken then s.setX .pc (BitVec.ofInt 16 (s.pc.toNat + 2 * off.toInt)) else s)
    let n := s.psw.getLsbD 3
    let z := s.psw.getLsbD 2
    let v := s.psw.getLsbD 1
    let c := s.psw.getLsbD 0
    exec (.br off) s = goes true ∧ exec (.bne off) s = goes (!z) ∧ exec (.beq off) s = goes z ∧
    exec (.bpl off) s = goes (!n) ∧ exec (.bmi off) s = goes n ∧ exec (.bvc off) s = goes (!v) ∧
    exec (.bvs off) s = goes v ∧ exec (.bcc off) s = goes (!c) ∧ exec (.bcs off) s = goes c

/-- The branches on an order: BGE and BLT on N ^ V, BGT and BLE on Z | (N ^ V), BHI and BLOS on C | Z (43_branches.md
R158 to R161, R164, R165). -/
def Obligations.OrderBranches : Prop :=
  ∀ (off : BitVec 8) (s : State),
    let goes (taken : Bool) : Host.Outcome State Fault Refusal :=
      .next (if taken then s.setX .pc (BitVec.ofInt 16 (s.pc.toNat + 2 * off.toInt)) else s)
    let n := s.psw.getLsbD 3
    let z := s.psw.getLsbD 2
    let v := s.psw.getLsbD 1
    let c := s.psw.getLsbD 0
    exec (.bge off) s = goes (!(n ^^ v)) ∧ exec (.blt off) s = goes (n ^^ v) ∧
    exec (.bgt off) s = goes (!(z || (n ^^ v))) ∧ exec (.ble off) s = goes (z || (n ^^ v)) ∧
    exec (.bhi off) s = goes (!(c || z)) ∧ exec (.blos off) s = goes (c || z)

/-- After CMP of `v` with `d` the branches go by the order of the two values: BLT, BGE, BGT and BLE signed, BCS
(`BLO`), BCC (`BHIS`), BHI and BLOS unsigned, BEQ and BNE by equality (41_double_operand.md R109). -/
def Obligations.CompareThenBranch : Prop :=
  ∀ (src dst : Operand) (s : State) (v d : Word) (loc : Loc) (t : State) (off : BitVec 8),
    GetsOperands .word src dst s v d loc t →
    ∃ u, exec (.cmp src dst) s = .next u ∧
      let goes (taken : Bool) : Host.Outcome State Fault Refusal :=
        .next (if taken then u.setX .pc (branchTarget u.pc off) else u)
      exec (.blt off) u = goes (decide (v.toInt < d.toInt)) ∧ exec (.bge off) u = goes (decide (d.toInt ≤ v.toInt)) ∧
      exec (.bgt off) u = goes (decide (d.toInt < v.toInt)) ∧ exec (.ble off) u = goes (decide (v.toInt ≤ d.toInt)) ∧
      exec (.bcs off) u = goes (decide (v.toNat < d.toNat)) ∧ exec (.bcc off) u = goes (decide (d.toNat ≤ v.toNat)) ∧
      exec (.bhi off) u = goes (decide (d.toNat < v.toNat)) ∧
      exec (.blos off) u = goes (decide (v.toNat ≤ d.toNat)) ∧
      exec (.beq off) u = goes (decide (v = d)) ∧ exec (.bne off) u = goes (decide (v ≠ d))

/-! ## Subroutines -/

/-- JSR (44_subroutine.md R170): a mode-0 target is illegal before anything else; otherwise the resolution, the push
of R's value, R takes `pc`, `pc` takes the target. A trap in the push leaves `sp` decremented and R and `pc`
unchanged. -/
def Obligations.JsrResult : Prop :=
  ∀ (r : Reg) (dst : Operand) (s : State),
    (dst.mode = .register → exec (.jsr r dst) s = .next (s.raise (.fault .illegalInstruction) none)) ∧
    (∀ w, resolve dst .word s = .trapped w → exec (.jsr r dst) s = .next w) ∧
    ∀ ea s1, resolve dst .word s = .ok (.mem ea) s1 →
      let s2 := s1.setX .sp (s1.x .sp - 2)
      (∀ s3, s2.memWrite (s1.x .sp - 2) .word (s1.x r) = .ok () s3 →
        exec (.jsr r dst) s = .next ((s3.setX r (s1.x .pc)).setX .pc ea)) ∧
      ∀ w, s2.memWrite (s1.x .sp - 2) .word (s1.x r) = .trapped w →
        exec (.jsr r dst) s = .next w ∧ w.x .sp = s1.x .sp - 2 ∧ w.x .pc = s1.x .pc ∧
          (r ≠ .sp → w.x r = s1.x r)

/-- RTS (44_subroutine.md R171): the read first, so that a trap there changes nothing but the trap record (and the
log of a device call); then `pc` takes R, `sp` steps, R takes the word read. -/
def Obligations.RtsResult : Prop :=
  ∀ (r : Reg) (s : State),
    (∀ w s1, s.memRead (s.x .sp) .word = .ok w s1 →
      let s2 := s1.setX .pc (s1.x r)
      let s3 := s2.setX .sp (s2.x .sp + 2)
      exec (.rts r) s = .next (s3.setX r w)) ∧
    ∀ u, s.memRead (s.x .sp) .word = .trapped u →
      exec (.rts r) s = .next u ∧ { u with trap := s.trap, deviceLog := s.deviceLog } = s

/-- RTS undoes JSR, for every linkage register but SP (44_subroutine.md R172): when the call completes with its stack
word in core memory, and the code between leaves `sp`, R and that word alone, the return restores R and `sp` to their
values after the JSR's resolution and sets `pc` to the address after the JSR and its index word. For R = SP the
pseudocode of R170 and R171 does not give the sentence of R172, which the spec marks as derived; the model follows the
pseudocode (assumption 11). -/
def Obligations.RtsUndoesJsr : Prop :=
  ∀ (r : Reg) (dst : Operand) (s s1 u m : State) (ea : Word), r ≠ .sp → s.core.wf →
    resolve dst .word s = .ok (.mem ea) s1 → (s1.x .sp - 2).getLsbD 0 = false → s1.inCore (s1.x .sp - 2) →
    exec (.jsr r dst) s = .next u →
    m.x .sp = u.x .sp → (r ≠ .pc → m.x r = u.x r) → m.params = u.params →
    m.core.read (u.x .sp).toNat = u.core.read (u.x .sp).toNat →
    m.core.read ((u.x .sp).toNat + 1) = u.core.read ((u.x .sp).toNat + 1) →
    ∃ t, exec (.rts r) m = .next t ∧ t.x .sp = s1.x .sp ∧ t.x .pc = s1.x .pc ∧ (r ≠ .pc → t.x r = s1.x r)

/-! ## ASH and MUL -/

/-- ASH (45_register_ops.md R175): the count is the signed low 6 bits of the source; the three cases of the shift with
their carry and overflow; flags, then the register. -/
def Obligations.AshResult : Prop :=
  ∀ (r : Reg) (src : Operand) (s : State) (cnt : Word) (loc : Loc) (t : State),
    GetsOperand .word src s cnt loc t →
    let n : Int := (cnt.extractLsb' 0 6).toInt
    let v := t.x r
    ∃ (q : Word) (c ov : Bool),
      exec (.ash r src) s =
        .next ((t.setCC { n := q.getLsbD 15, z := decide (q = 0), v := ov, c := c }).setX r q) ∧
      (n = 0 → q = v ∧ c = false ∧ ov = false) ∧
      (0 < n →
        let shifted := v.toNat <<< n.toNat
        q = BitVec.ofNat 16 shifted ∧ c = shifted.testBit 16 ∧
          (ov = true ↔ ∃ k : Nat, 16 ≤ k ∧ k ≤ 15 + n.toNat ∧ shifted.testBit k ≠ q.getLsbD 15)) ∧
      (n < 0 →
        let m := (-n).toNat
        q = BitVec.ofInt 16 (v.toInt.fdiv (2 ^ m)) ∧ (c = true ↔ v.toInt.fdiv (2 ^ (m - 1)) % 2 = 1) ∧
          ov = false)

/-- MUL (45_register_ops.md R176): the exact signed product; N and Z from it, V = 0, C by `MUL_C_BOUND`; an even R
takes the high half and R+1 the low half, an odd R the low half. The registers read as one 32-bit number are the
product. -/
def Obligations.MulResult : Prop :=
  ∀ (r : Reg) (src : Operand) (s : State) (m : Word) (loc : Loc) (t : State),
    GetsOperand .word src s m loc t →
    let p : Int := (t.x r).toInt * m.toInt
    let whole := BitVec.ofInt 32 p
    let carry : Bool :=
      match t.params.mulCBound with
      | .fits16 => decide (¬(-2 ^ 15 ≤ p ∧ p ≤ 2 ^ 15 - 1))
      | .handbook => decide (p < -2 ^ 15 ∨ p ≥ 2 ^ 15 - 1)
    let u := t.setCC { n := decide (p < 0), z := decide (p = 0), v := false, c := carry }
    (∀ hi lo, (r, hi, lo) ∈ [(Reg.r0, Reg.r0, Reg.r1), (.r2, .r2, .r3), (.r4, .r4, .r5), (.sp, .sp, .pc)] →
      exec (.mul r src) s = .next ((u.setX hi (whole.extractLsb' 16 16)).setX lo (whole.extractLsb' 0 16))) ∧
    (r ∈ [Reg.r1, .r3, .r5, .pc] → exec (.mul r src) s = .next (u.setX r (whole.extractLsb' 0 16))) ∧
    whole.toInt = p

/-! ## Condition codes, processor control, return -/

/-- CCODE (46_system.md R181): a mask-or or a mask-and on the packed PSW, which sets or clears exactly the selected
flags and changes nothing else. -/
def Obligations.CcodeResult : Prop :=
  ∀ (set n z v c : Bool) (s : State),
    let m : Word := (0b000000000000 : BitVec 12) ++ BitVec.ofBool n ++ BitVec.ofBool z ++ BitVec.ofBool v ++
      BitVec.ofBool c
    exec (.ccode set n z v c) s = .next { s with psw := if set then s.psw ||| m else s.psw &&& ~~~m } ∧
    exec (.ccode set n z v c) s =
      .next
        (s.setCC
          { n := if n then set else s.cc.n, z := if z then set else s.cc.z, v := if v then set else s.cc.v,
            c := if c then set else s.cc.c })

/-- HALT and WAIT (46_system.md R182, R183): in kernel mode HALT raises its pseudo-trap, in any other mode
ILLEGAL_INSTRUCTION; WAIT raises its pseudo-trap in every mode; neither changes anything else. -/
def Obligations.HaltWaitResult : Prop :=
  ∀ s : State,
    let stop (k : TrapKind) (vec : Option Word) : Host.Outcome State Fault Refusal :=
      .next
        { s with
          trap := some
            { kind := k, vector := vec, instAddr := s.latch.instAddr, opcode := s.latch.opcode, faultAddr := none } }
    (s.psw.extractLsb' 14 2 = 0 → exec .halt s = stop .halt none) ∧
    (s.psw.extractLsb' 14 2 ≠ 0 → exec .halt s = stop (.fault .illegalInstruction) (some 0o000010)) ∧
    exec .wait s = stop .wait none

/-- RTI and RTT (46_system.md R184, R185): outside kernel mode ILLEGAL_INSTRUCTION; in kernel mode pop `pc`, then pop
the PSW through `WritePSW`. A trap in the first pop changes no register; one in the second leaves the new `pc` and
`sp` + 2, and the PSW unchanged. -/
def Obligations.ReturnFromTrapResult : Prop :=
  ∀ i ∈ [Instr.rti, .rtt], ∀ s : State,
    (s.psw.extractLsb' 14 2 ≠ 0 → exec i s = .next (s.raise (.fault .illegalInstruction) none)) ∧
    (s.psw.extractLsb' 14 2 = 0 →
      (∀ w, s.memRead (s.x .sp) .word = .trapped w →
        exec i s = .next w ∧ w.psw = s.psw ∧ ∀ r, w.x r = s.x r) ∧
      ∀ target s1, s.memRead (s.x .sp) .word = .ok target s1 →
        let s2 := (s1.setX .pc target).setX .sp (s.x .sp + 2)
        (∀ w, s2.memRead (s.x .sp + 2) .word = .trapped w →
          exec i s = .next w ∧ w.x .pc = target ∧ w.x .sp = s.x .sp + 2 ∧ w.psw = s.psw) ∧
        ∀ v s3, s2.memRead (s.x .sp + 2) .word = .ok v s3 →
          exec i s = .next ((s3.setX .sp (s.x .sp + 4)).writePSW v))

/-- `WritePSW` (10_state.md R35): a change of RS swaps the banks, a change of CM saves the stack pointer in the old
mode's slot and loads the new mode's, the PSW takes the value with bits 10:8 zero, and nothing else changes. -/
def Obligations.WritePswSwitches : Prop :=
  ∀ (s : State) (v : Word),
    let t := s.writePSW v
    t.psw = v &&& 0o174377 ∧
    (v.getLsbD 11 ≠ s.psw.getLsbD 11 → t.live = s.shadow ∧ t.shadow = s.live) ∧
    (v.getLsbD 11 = s.psw.getLsbD 11 → t.live = s.live ∧ t.shadow = s.shadow) ∧
    (v.extractLsb' 14 2 ≠ s.psw.extractLsb' 14 2 →
      t.spslot.get (s.psw.extractLsb' 14 2) = s.sp ∧ t.sp = s.spslot.get (v.extractLsb' 14 2) ∧
        ∀ m, m ≠ s.psw.extractLsb' 14 2 → t.spslot.get m = s.spslot.get m) ∧
    (v.extractLsb' 14 2 = s.psw.extractLsb' 14 2 → t.spslot = s.spslot ∧ t.sp = s.sp) ∧
    { t with live := s.live, shadow := s.shadow, sp := s.sp, spslot := s.spslot, psw := s.psw } = s

/-- Every stub raises ILLEGAL_INSTRUCTION with no operand resolved, nothing read or written and no flag changed; a
step that fetches one leaves `pc` at its address + 2 (30_encoding.md R98). The stubs are NEG NEGB ADC ADCB SBC SBCB
ROR RORB ROL ROLB ASR ASRB ASL ASLB SWAB SXT MARK MFPI MTPI MTPS MFPD MTPD MFPS JMP DIV ASHC XOR SOB BPT IOT RESET SPL
EMT TRAP. What the step does beside that with `TCACHE = ON`, a refusal at a stale word and a note of the word executed,
is the model's choice (assumption 8), from 20_memory.md R75. -/
def Obligations.StubsRaiseIllegalInstruction : Prop :=
  (∀ (o : Operand) (r : Reg) (n : BitVec 6) (l : BitVec 3) (k : BitVec 8) (s : State),
    ∀ i ∈ [Instr.neg o, .negb o, .adc o, .adcb o, .sbc o, .sbcb o, .ror o, .rorb o, .rol o, .rolb o, .asr o, .asrb o,
        .asl o, .aslb o, .swab o, .sxt o, .mark n, .mfpi o, .mtpi o, .mtps o, .mfpd o, .mtpd o, .mfps o, .jmp o,
        .div r o, .ashc r o, .xor r o, .sob r n, .bpt, .iot, .reset, .spl l, .emt k, .trap k],
      i.isStub = true ∧
      exec i s =
        .next
          { s with
            trap := some
              { kind := .fault .illegalInstruction, vector := some 0o000010, instAddr := s.latch.instAddr,
                opcode := s.latch.opcode, faultAddr := none } }) ∧
  ∀ (s u : State) (i : Instr) (w : Word), i.isStub = true → s.trap = none → ¬ s.stale s.pc →
    s.fetchOpcode = .ok w u → decode w = .ok i →
    step s = .next ((u.noteExecuted s.pc).raise (.fault .illegalInstruction) none) ∧ u.pc = s.pc + 2

/-! ## Memory and operands -/

/-- `MemRead` (20_memory.md R50), case by case in its order: an odd word address, core memory, no device, a device.
The device case is the model's choice (assumption 5): the answer is a free value of the calls made, every call is
logged, and a device that never answers is stuck; every answer has its case. -/
def Obligations.MemReadFollowsItsSteps : Prop :=
  ∀ (s : State) (a : Word),
    (a.getLsbD 0 = true → s.memRead a .word = .trapped (s.raise (.fault .oddAddress) (some a))) ∧
    (a.toNat < s.params.ioBase → s.memRead a .byte = .ok ((0 : Byte) ++ s.core.read a.toNat) s) ∧
    (a.getLsbD 0 = false → a.toNat < s.params.ioBase →
      s.memRead a .word = .ok (s.core.read (a.toNat + 1) ++ s.core.read a.toNat) s) ∧
    ∀ sz : Size, (sz = .word → a.getLsbD 0 = false) → s.params.ioBase ≤ a.toNat →
      (s.deviceLookup a = none → s.memRead a sz = .trapped (s.raise (.fault .nonexistentAddress) (some a))) ∧
      ∀ b, s.deviceLookup a = some b →
        let call : DeviceCall := ⟨b.handler, b.context, .load, a.toNat - b.base, sz⟩
        let t := { s with deviceLog := s.deviceLog ++ [call] }
        s.memRead a sz =
          match Config.deviceLoad s.deviceLog call with
          | .bytes lo hi => .ok (if sz = .byte then (0 : Byte) ++ lo else hi ++ lo) t
          | .trap k => .trapped (t.raise (.fault k) (some a))
          | .never => .stuck .deviceNeverReturns

/-- `MemWrite` (20_memory.md R51), case by case in its order. Two things are the model's choice: the form of a device's
answer, which may never come, and the log of calls (assumption 5), and `noteStore`, which marks a word for
`TCACHE = ON` and does nothing with `TCACHE = OFF` (assumption 8). -/
def Obligations.MemWriteFollowsItsSteps : Prop :=
  (∀ (s : State) (a v : Word),
    let lo : Byte := v.extractLsb' 0 8
    let hi : Byte := v.extractLsb' 8 8
    (a.getLsbD 0 = true → s.memWrite a .word v = .trapped (s.raise (.fault .oddAddress) (some a))) ∧
    (a.toNat < s.params.ioBase →
      s.memWrite a .byte v = .ok () ({ s with core := s.core.write a.toNat lo }.noteStore a)) ∧
    (a.getLsbD 0 = false → a.toNat < s.params.ioBase →
      s.memWrite a .word v =
        .ok () ({ s with core := (s.core.write a.toNat lo).write (a.toNat + 1) hi }.noteStore a)) ∧
    ∀ sz : Size, (sz = .word → a.getLsbD 0 = false) → s.params.ioBase ≤ a.toNat →
      (s.deviceLookup a = none → s.memWrite a sz v = .trapped (s.raise (.fault .nonexistentAddress) (some a))) ∧
      ∀ b, s.deviceLookup a = some b →
        let buf := if sz = .byte then [lo] else [lo, hi]
        let call : DeviceCall := ⟨b.handler, b.context, .store buf, a.toNat - b.base, sz⟩
        let t := { s with deviceLog := s.deviceLog ++ [call] }
        s.memWrite a sz v =
          match Config.deviceStore s.deviceLog call with
          | .done => .ok () (t.noteStore a)
          | .trap k => .trapped (t.raise (.fault k) (some a))
          | .never => .stuck .deviceNeverReturns) ∧
  ∀ (s : State) (a : Word), s.params.tcache = false → s.noteStore a = s

/-- `DeviceLookup` gives the first binding in list order whose range contains the first byte's address, and is not
consulted below `IO_BASE` (20_memory.md R53). -/
def Obligations.DeviceLookupTakesFirst : Prop :=
  (∀ (s : State) (a : Word) (b : Binding), s.deviceLookup a = some b ↔
    ∃ before after, s.devices = before ++ b :: after ∧ b.base ≤ a.toNat ∧ a.toNat < b.base + b.length ∧
      ∀ c ∈ before, ¬(c.base ≤ a.toNat ∧ a.toNat < c.base + c.length)) ∧
  (∀ (s : State) (a : Word), s.deviceLookup a = none ↔
    ∀ c ∈ s.devices, ¬(c.base ≤ a.toNat ∧ a.toNat < c.base + c.length)) ∧
  (∀ (s : State) (a : Word) (sz : Size) (l : List Binding), a.toNat < s.params.ioBase → ¬ misaligned a sz →
    ∃ v, s.memRead a sz = .ok v s ∧ { s with devices := l }.memRead a sz = .ok v { s with devices := l }) ∧
  ∀ s t : State, step s = .next t → t.devices = s.devices

/-- A word in core memory is little-endian, a store is read back, a byte access sees the low byte of the word at an
even address and its high byte at the odd one, and no other byte changes (20_memory.md R44, R47; the byte order is the
spec's decision D6). -/
def Obligations.StoredBytesReadBack : Prop :=
  (∀ (s t : State) (a v : Word) (sz : Size), s.core.wf → s.inCore a → s.memWrite a sz v = .ok () t →
    t.memRead a sz = .ok (regValue v sz) t ∧ BytesKept (some a) sz s t ∧ t.core.wf) ∧
  (∀ (s t : State) (a v : Word), s.core.wf → s.inCore a → s.memWrite a .word v = .ok () t →
    t.core.read a.toNat = lowByte v ∧ t.core.read (a.toNat + 1) = highByte v) ∧
  ∀ (s : State) (a w : Word), s.params.valid → s.inCore a → s.memRead a .word = .ok w s →
    s.memRead a .byte = .ok (ofByte (lowByte w)) s ∧ s.memRead (a + 1) .byte = .ok (ofByte (highByte w)) s

/-- The eight addressing modes, with the step exception for SP and PC, and what a trap in a resolution leaves
(20_memory.md R58 to R66). -/
def Obligations.AddressingModes : Prop :=
  ∀ (r : Reg) (sz : Size) (s : State),
    let step : Word := if r = .sp ∨ r = .pc then 2 else if sz = .byte then 1 else 2
    resolve ⟨.register, r⟩ sz s = .ok (.reg r) s ∧
    resolve ⟨.deferred, r⟩ sz s = .ok (.mem (s.x r)) s ∧
    resolve ⟨.autoInc, r⟩ sz s = .ok (.mem (s.x r)) (s.setX r (s.x r + step)) ∧
    (∀ a t, s.memRead (s.x r) .word = .ok a t →
      resolve ⟨.autoIncDeferred, r⟩ sz s = .ok (.mem a) (t.setX r (s.x r + 2))) ∧
    (∀ t, s.memRead (s.x r) .word = .trapped t →
      resolve ⟨.autoIncDeferred, r⟩ sz s = .trapped t ∧ t.x r = s.x r) ∧
    resolve ⟨.autoDec, r⟩ sz s = .ok (.mem (s.x r - step)) (s.setX r (s.x r - step)) ∧
    (∀ a t, (s.setX r (s.x r - 2)).memRead (s.x r - 2) .word = .ok a t →
      resolve ⟨.autoDecDeferred, r⟩ sz s = .ok (.mem a) t) ∧
    (∀ t, (s.setX r (s.x r - 2)).memRead (s.x r - 2) .word = .trapped t →
      resolve ⟨.autoDecDeferred, r⟩ sz s = .trapped t ∧ t.x r = s.x r - 2) ∧
    (∀ d t, s.fetch = .ok d t →
      resolve ⟨.index, r⟩ sz s = .ok (.mem (t.x r + d)) t ∧
      (∀ a u, t.memRead (t.x r + d) .word = .ok a u → resolve ⟨.indexDeferred, r⟩ sz s = .ok (.mem a) u) ∧
      ∀ u, t.memRead (t.x r + d) .word = .trapped u → resolve ⟨.indexDeferred, r⟩ sz s = .trapped u) ∧
    ∀ t, s.fetch = .trapped t →
      resolve ⟨.index, r⟩ sz s = .trapped t ∧ resolve ⟨.indexDeferred, r⟩ sz s = .trapped t

/-- A resolution takes from the instruction stream the words of R90: one for modes 6 and 7, and for modes 2 and 3 on
register 7. Modes 4 and 5 on register 7 move `pc` back (20_memory.md R68) and are the only exception
(30_encoding.md R90, which the spec marks as derived). -/
def Obligations.InstructionLength : Prop :=
  ∀ (o : Operand) (sz : Size) (s t : State) (loc : Loc), resolve o sz s = .ok loc t →
    ((o.mode = .autoDec ∨ o.mode = .autoDecDeferred) ∧ o.reg = .pc → t.pc = s.pc - 2) ∧
    (¬((o.mode = .autoDec ∨ o.mode = .autoDecDeferred) ∧ o.reg = .pc) →
      t.pc = s.pc +
        (if o.mode = .index ∨ o.mode = .indexDeferred ∨
            (o.mode = .autoInc ∨ o.mode = .autoIncDeferred) ∧ o.reg = .pc then 2 else 0))

/-- `ReadOp` and `WriteOp` (20_memory.md R69, R70): a byte form reads a register's low byte and its write keeps the
high byte; a memory locator is a `MemRead` or `MemWrite`. A byte read is always the value of a byte (assumption 10).
That a byte write to a register keeps the high byte is R70, which the spec marks as derived. -/
def Obligations.ReadAndWriteThroughLocators : Prop :=
  (∀ (r : Reg) (v : Word) (s : State),
    readOp (.reg r) .word s = .ok (s.x r) s ∧
    readOp (.reg r) .byte s = .ok ((0 : Byte) ++ (s.x r).extractLsb' 0 8) s ∧
    writeOp (.reg r) .word v s = .ok () (s.setX r v) ∧
    writeOp (.reg r) .byte v s = .ok () (s.setX r ((s.x r).extractLsb' 8 8 ++ v.extractLsb' 0 8))) ∧
  (∀ (a v : Word) (sz : Size) (s : State),
    readOp (.mem a) sz s = s.memRead a sz ∧ writeOp (.mem a) sz v s = s.memWrite a sz v) ∧
  ∀ (loc : Loc) (s t : State) (v : Word), readOp loc .byte s = .ok v t → ∃ b : Byte, v = ofByte b

/-- A write of the condition codes changes those PSW bits only: bit 3 is N, bit 2 Z, bit 1 V, bit 0 C, every other bit
stays, and no register is swapped (10_state.md R28; R32, which the spec marks as derived). -/
def Obligations.FlagWritesChangeFlagsOnly : Prop :=
  ∀ (s : State) (cc : CC),
    (s.setCC cc).psw.getLsbD 3 = cc.n ∧ (s.setCC cc).psw.getLsbD 2 = cc.z ∧ (s.setCC cc).psw.getLsbD 1 = cc.v ∧
    (s.setCC cc).psw.getLsbD 0 = cc.c ∧ (∀ k, 4 ≤ k → (s.setCC cc).psw.getLsbD k = s.psw.getLsbD k) ∧
    (∀ b, (s.setCC { s.cc with n := b }).psw = (s.psw &&& 0o177767 ||| (if b then 0o10 else 0)) ∧
      (s.setCC { s.cc with z := b }).psw = (s.psw &&& 0o177773 ||| (if b then 0o4 else 0)) ∧
      (s.setCC { s.cc with v := b }).psw = (s.psw &&& 0o177775 ||| (if b then 0o2 else 0)) ∧
      (s.setCC { s.cc with c := b }).psw = (s.psw &&& 0o177776 ||| (if b then 0o1 else 0))) ∧
    { s.setCC cc with psw := s.psw } = s

/-! ## Frames -/

/-- FRAME of the two-operand instructions that write their destination: MOV, MOVB, BIC, BICB, BIS, BISB keep C; ADD and
SUB may write every flag. Registers other than a mode-0 destination and those the two specifiers step, everything
`Kept` names, and every byte of memory outside the bytes stored to, are unchanged (41_double_operand.md R103 to R118;
10_state.md R31; 20_memory.md R44). -/
def Obligations.FrameTwoOperandWriters : Prop :=
  ∀ (src dst : Operand) (s t : State),
    let W r := touches src r ∨ touches dst r ∨ isDestReg dst r
    (exec (.mov src dst) s = .next t →
      Kept W s t ∧ t.cc.c = s.cc.c ∧ BytesKept (storedByMove .word src dst s) .word s t) ∧
    (exec (.movb src dst) s = .next t →
      Kept W s t ∧ t.cc.c = s.cc.c ∧ BytesKept (storedByMove .byte src dst s) .byte s t) ∧
    (exec (.bic src dst) s = .next t ∨ exec (.bis src dst) s = .next t →
      Kept W s t ∧ t.cc.c = s.cc.c ∧ BytesKept (storedByTwo .word src dst s) .word s t) ∧
    (exec (.bicb src dst) s = .next t ∨ exec (.bisb src dst) s = .next t →
      Kept W s t ∧ t.cc.c = s.cc.c ∧ BytesKept (storedByTwo .byte src dst s) .byte s t) ∧
    (exec (.add src dst) s = .next t ∨ exec (.sub src dst) s = .next t →
      Kept W s t ∧ BytesKept (storedByTwo .word src dst s) .word s t)

/-- FRAME of the instructions that write flags only: CMP, CMPB, TST, TSTB may write every flag, BIT and BITB keep C.
Registers other than those the specifiers step, and every byte of memory, are unchanged (41_double_operand.md R109 to
R112; 42_single_operand.md R128, R129). -/
def Obligations.FrameFlagOnly : Prop :=
  ∀ (src dst : Operand) (s t : State),
    let W r := touches src r ∨ touches dst r
    (exec (.cmp src dst) s = .next t ∨ exec (.cmpb src dst) s = .next t → Kept W s t ∧ BytesKept none .word s t) ∧
    (exec (.bit src dst) s = .next t ∨ exec (.bitb src dst) s = .next t →
      Kept W s t ∧ t.cc.c = s.cc.c ∧ BytesKept none .word s t) ∧
    (exec (.tst dst) s = .next t ∨ exec (.tstb dst) s = .next t →
      Kept (touches dst) s t ∧ BytesKept none .word s t)

/-- FRAME of the one-operand instructions that write their destination: INC, INCB, DEC, DECB keep C; CLR, CLRB, COM,
COMB may write every flag (42_single_operand.md R119 to R127). -/
def Obligations.FrameOneOperandWriters : Prop :=
  ∀ (dst : Operand) (s t : State),
    let W r := touches dst r ∨ isDestReg dst r
    (exec (.clr dst) s = .next t → Kept W s t ∧ BytesKept (storedByClear .word dst s) .word s t) ∧
    (exec (.clrb dst) s = .next t → Kept W s t ∧ BytesKept (storedByClear .byte dst s) .byte s t) ∧
    (exec (.com dst) s = .next t → Kept W s t ∧ BytesKept (storedByOne .word dst s) .word s t) ∧
    (exec (.comb dst) s = .next t → Kept W s t ∧ BytesKept (storedByOne .byte dst s) .byte s t) ∧
    (exec (.inc dst) s = .next t ∨ exec (.dec dst) s = .next t →
      Kept W s t ∧ t.cc.c = s.cc.c ∧ BytesKept (storedByOne .word dst s) .word s t) ∧
    (exec (.incb dst) s = .next t ∨ exec (.decb dst) s = .next t →
      Kept W s t ∧ t.cc.c = s.cc.c ∧ BytesKept (storedByOne .byte dst s) .byte s t)

/-- FRAME of ASH and MUL: the register R (and R+1 for an even R in MUL) and those the source specifier steps; every
byte of memory is unchanged (45_register_ops.md R174 to R176). -/
def Obligations.FrameRegisterOps : Prop :=
  ∀ (r : Reg) (src : Operand) (s t : State),
    (exec (.ash r src) s = .next t → Kept (fun q => touches src q ∨ q = r) s t ∧ BytesKept none .word s t) ∧
    (exec (.mul r src) s = .next t →
      Kept (fun q => touches src q ∨ q = r ∨ pairOf r = some q) s t ∧ BytesKept none .word s t)

/-- FRAME of the stack instructions: JSR and RTS write R, `sp`, `pc` and no flag; JSR stores its one word, RTS, RTI and
RTT nothing. RTI and RTT leave the two banks alone or swapped, every stored stack pointer but the kernel's, and no
parameter, binding or latch changed (44_subroutine.md R170, R171; 46_system.md R184, R185). -/
def Obligations.FrameStackInstructions : Prop :=
  (∀ (r : Reg) (dst : Operand) (s t : State), exec (.jsr r dst) s = .next t →
    Kept (fun q => touches dst q ∨ q = r ∨ q = .sp ∨ q = .pc) s t ∧ t.psw = s.psw ∧
      BytesKept (storedByJsr dst s) .word s t) ∧
  (∀ (r : Reg) (s t : State), exec (.rts r) s = .next t →
    Kept (fun q => q = r ∨ q = .sp ∨ q = .pc) s t ∧ t.psw = s.psw ∧ BytesKept none .word s t) ∧
  ∀ s t : State, exec .rti s = .next t ∨ exec .rtt s = .next t →
    t.core = s.core ∧ t.params = s.params ∧ t.devices = s.devices ∧ t.latch = s.latch ∧ t.thunks = s.thunks ∧
    s.deviceLog <+: t.deviceLog ∧ TrapKept s t ∧
    (t.live = s.live ∧ t.shadow = s.shadow ∨ t.live = s.shadow ∧ t.shadow = s.live) ∧
    ∀ m, m ≠ 0 → t.spslot.get m = s.spslot.get m
end

