-- ==== Sys2Proof/Laws/Memory.lean ====
section
/-! SUPPORT. Core memory: reading after writing, and the canonical form that every memory operation keeps. -/

namespace Sys2Proof.Machine

/-- An address below every listed one reads as 0. -/
theorem Memory.read_eq_zero {m : Memory} {a : Nat} (h : ∀ c ∈ m, a ≠ c.1) : Memory.read m a = 0 := by
  induction m with
  | nil => rfl
  | cons c m ih =>
    obtain ⟨b, w⟩ := c
    have hb : a ≠ b := h (b, w) (by simp)
    simp only [Memory.read, if_neg hb]
    exact ih fun c hc => h c (by simp [hc])

/-- A write leaves every other address alone. -/
theorem Memory.read_write_other (m : Memory) {a b : Nat} (v : Byte) (h : b ≠ a) :
    Memory.read (Memory.write m a v) b = Memory.read m b := by
  induction m with
  | nil =>
    simp only [Memory.write]
    split
    · rfl
    · simp [Memory.read, h]
  | cons c m ih =>
    obtain ⟨k, w⟩ := c
    simp only [Memory.write]
    split
    · split
      · rfl
      · simp [Memory.read, h]
    · split
      · rename_i _ hk
        subst hk
        split <;> simp [Memory.read, h]
      · simp only [Memory.read, ih]

/-- In a canonical memory a write is read back. -/
theorem Memory.read_write_same {m : Memory} (hm : m.wf) (a : Nat) (v : Byte) :
    Memory.read (Memory.write m a v) a = v := by
  induction m with
  | nil =>
    simp only [Memory.write]
    split
    · simp [Memory.read, *]
    · simp [Memory.read]
  | cons c m ih =>
    obtain ⟨k, w⟩ := c
    obtain ⟨hp, hz⟩ := hm
    rw [List.pairwise_cons] at hp
    simp only [Memory.write]
    split
    · rename_i hlt
      split
      · rename_i hv
        rw [hv]
        apply Memory.read_eq_zero
        intro c hc
        rcases List.mem_cons.mp hc with rfl | hc
        · exact Nat.ne_of_lt hlt
        · have := hp.1 c hc
          simp only at this
          omega
      · simp [Memory.read]
    · split
      · rename_i _ hk
        subst hk
        split
        · rename_i hv
          rw [hv]
          exact Memory.read_eq_zero fun c hc => Nat.ne_of_lt (hp.1 c hc)
        · simp [Memory.read]
      · rename_i hk
        simp only [Memory.read, if_neg hk]
        exact ih ⟨hp.2, fun c hc => hz c (List.mem_cons_of_mem _ hc)⟩

/-- Every listed pair after a write was listed before, or is the pair written. -/
theorem Memory.mem_write {m : Memory} {a : Nat} {v : Byte} {c : Host.Cell} (h : c ∈ Memory.write m a v) :
    c ∈ m ∨ c = (a, v) ∧ v ≠ 0 := by
  induction m with
  | nil =>
    simp only [Memory.write] at h
    split at h
    · cases h
    · rename_i hv
      exact .inr ⟨by simpa using h, hv⟩
  | cons d m ih =>
    obtain ⟨k, w⟩ := d
    simp only [Memory.write] at h
    split at h
    · split at h
      · exact .inl h
      · rename_i hv
        rcases List.mem_cons.mp h with rfl | h
        · exact .inr ⟨rfl, hv⟩
        · exact .inl h
    · split at h
      · split at h
        · exact .inl (List.mem_cons_of_mem _ h)
        · rename_i hv
          rcases List.mem_cons.mp h with rfl | h
          · exact .inr ⟨rfl, hv⟩
          · exact .inl (List.mem_cons_of_mem _ h)
      · rcases List.mem_cons.mp h with rfl | h
        · exact .inl (by simp)
        · rcases ih h with h | h
          · exact .inl (List.mem_cons_of_mem _ h)
          · exact .inr h

/-- A write keeps the canonical form. -/
theorem Memory.write_wf {m : Memory} (hm : m.wf) (a : Nat) (v : Byte) : (Memory.write m a v).wf := by
  refine ⟨?_, ?_⟩
  · have hp := hm.1
    induction m with
    | nil =>
      simp only [Memory.write]
      split <;> simp
    | cons c m ih =>
      obtain ⟨k, w⟩ := c
      have hm' : Memory.wf m := ⟨(List.pairwise_cons.mp hm.1).2, fun c hc => hm.2 c (List.mem_cons_of_mem _ hc)⟩
      rw [List.pairwise_cons] at hp
      simp only [Memory.write]
      split
      · rename_i hlt
        split
        · exact hm.1
        · refine List.pairwise_cons.mpr ⟨fun c hc => ?_, hm.1⟩
          rcases List.mem_cons.mp hc with rfl | hc
          · exact hlt
          · exact Nat.lt_trans hlt (hp.1 c hc)
      · split
        · rename_i _ hk
          subst hk
          split
          · exact hp.2
          · exact List.pairwise_cons.mpr ⟨hp.1, hp.2⟩
        · rename_i hlt hk
          refine List.pairwise_cons.mpr ⟨fun c hc => ?_, ih hm' hm'.1⟩
          rcases Memory.mem_write hc with hc | ⟨rfl, -⟩
          · exact hp.1 c hc
          · simp only
            omega
  · intro c hc
    rcases Memory.mem_write hc with hc | ⟨rfl, hv⟩
    · exact hm.2 c hc
    · exact hv

/-- A write below a bound keeps every listed address below it. -/
theorem Memory.write_below {m : Memory} {n a : Nat} (h : ∀ c ∈ m, c.1 < n) (ha : a < n) (v : Byte) :
    ∀ c ∈ Memory.write m a v, c.1 < n := by
  intro c hc
  rcases Memory.mem_write hc with hc | ⟨rfl, -⟩
  · exact h c hc
  · exact ha

/-- A canonical memory is determined by what it reads as: equal memories are equal data. -/
theorem Memory.ext_of_read {m k : Memory} (hm : m.wf) (hk : k.wf) (h : ∀ a, Memory.read m a = Memory.read k a) :
    m = k := by
  induction m generalizing k with
  | nil =>
    cases k with
    | nil => rfl
    | cons d k =>
      have := h d.1
      simp only [Memory.read] at this
      exact absurd this.symm (by simpa [Memory.read] using hk.2 d (by simp))
  | cons c m ih =>
    obtain ⟨a, v⟩ := c
    have hv : v ≠ 0 := hm.2 (a, v) (by simp)
    have hpm := List.pairwise_cons.mp hm.1
    cases k with
    | nil =>
      have := h a
      simp only [Memory.read, if_pos] at this
      exact absurd this hv
    | cons d k =>
      obtain ⟨b, w⟩ := d
      have hw : w ≠ 0 := hk.2 (b, w) (by simp)
      have hpk := List.pairwise_cons.mp hk.1
      have hab : a = b := by
        rcases Nat.lt_trichotomy a b with hlt | heq | hlt
        · have ha := h a
          rw [Memory.read_eq_zero (m := (b, w) :: k)] at ha
          · simp only [Memory.read, if_pos] at ha
            exact absurd ha hv
          · intro c hc
            rcases List.mem_cons.mp hc with rfl | hc
            · exact Nat.ne_of_lt hlt
            · exact Nat.ne_of_lt (Nat.lt_trans hlt (hpk.1 c hc))
        · exact heq
        · have hb := h b
          rw [Memory.read_eq_zero (m := (a, v) :: m)] at hb
          · simp only [Memory.read, if_pos] at hb
            exact absurd hb.symm hw
          · intro c hc
            rcases List.mem_cons.mp hc with rfl | hc
            · exact Nat.ne_of_lt hlt
            · exact Nat.ne_of_lt (Nat.lt_trans hlt (hpm.1 c hc))
      subst hab
      have hvw : v = w := by simpa [Memory.read] using h a
      subst hvw
      congr 1
      refine ih ⟨hpm.2, fun c hc => hm.2 c (List.mem_cons_of_mem _ hc)⟩
        ⟨hpk.2, fun c hc => hk.2 c (List.mem_cons_of_mem _ hc)⟩ fun x => ?_
      by_cases hx : x = a
      · subst hx
        rw [Memory.read_eq_zero fun c hc => Nat.ne_of_lt (hpm.1 c hc),
          Memory.read_eq_zero fun c hc => Nat.ne_of_lt (hpk.1 c hc)]
      · simpa [Memory.read, hx] using h x

/-- Placing bytes keeps the canonical form. -/
theorem placeBytes_wf {m : Memory} (hm : m.wf) (n a : Nat) (l : List Byte) : (placeBytes m n a l).wf := by
  induction l generalizing m a with
  | nil => exact hm
  | cons b l ih =>
    simp only [placeBytes]
    apply ih
    split
    · exact Memory.write_wf hm _ _
    · exact hm

end Sys2Proof.Machine
end

