-- ==== Sys2Proof/Laws/State.lean ====
section
/-! SUPPORT. One lemma per field per update of State, so that no later proof unfolds a record update; and the register
view after a register write. -/

namespace Sys2Proof.Machine

variable (s : State)

/-! ## setX -/

@[simp] theorem State.setX_shadow (r : Reg) (v : Word) : (s.setX r v).shadow = s.shadow := by cases r <;> rfl
@[simp] theorem State.setX_spslot (r : Reg) (v : Word) : (s.setX r v).spslot = s.spslot := by cases r <;> rfl
@[simp] theorem State.setX_psw (r : Reg) (v : Word) : (s.setX r v).psw = s.psw := by cases r <;> rfl
@[simp] theorem State.setX_trap (r : Reg) (v : Word) : (s.setX r v).trap = s.trap := by cases r <;> rfl
@[simp] theorem State.setX_latch (r : Reg) (v : Word) : (s.setX r v).latch = s.latch := by cases r <;> rfl
@[simp] theorem State.setX_core (r : Reg) (v : Word) : (s.setX r v).core = s.core := by cases r <;> rfl
@[simp] theorem State.setX_devices (r : Reg) (v : Word) : (s.setX r v).devices = s.devices := by cases r <;> rfl
@[simp] theorem State.setX_deviceLog (r : Reg) (v : Word) : (s.setX r v).deviceLog = s.deviceLog := by cases r <;> rfl
@[simp] theorem State.setX_params (r : Reg) (v : Word) : (s.setX r v).params = s.params := by cases r <;> rfl
@[simp] theorem State.setX_thunks (r : Reg) (v : Word) : (s.setX r v).thunks = s.thunks := by cases r <;> rfl

/-! ## setCC -/

@[simp] theorem State.setCC_live (cc : CC) : (s.setCC cc).live = s.live := rfl
@[simp] theorem State.setCC_shadow (cc : CC) : (s.setCC cc).shadow = s.shadow := rfl
@[simp] theorem State.setCC_sp (cc : CC) : (s.setCC cc).sp = s.sp := rfl
@[simp] theorem State.setCC_spslot (cc : CC) : (s.setCC cc).spslot = s.spslot := rfl
@[simp] theorem State.setCC_pc (cc : CC) : (s.setCC cc).pc = s.pc := rfl
@[simp] theorem State.setCC_trap (cc : CC) : (s.setCC cc).trap = s.trap := rfl
@[simp] theorem State.setCC_latch (cc : CC) : (s.setCC cc).latch = s.latch := rfl
@[simp] theorem State.setCC_core (cc : CC) : (s.setCC cc).core = s.core := rfl
@[simp] theorem State.setCC_devices (cc : CC) : (s.setCC cc).devices = s.devices := rfl
@[simp] theorem State.setCC_deviceLog (cc : CC) : (s.setCC cc).deviceLog = s.deviceLog := rfl
@[simp] theorem State.setCC_params (cc : CC) : (s.setCC cc).params = s.params := rfl
@[simp] theorem State.setCC_thunks (cc : CC) : (s.setCC cc).thunks = s.thunks := rfl

/-! ## raise -/

@[simp] theorem State.raise_live (k : TrapKind) (a : Option Word) : (s.raise k a).live = s.live := rfl
@[simp] theorem State.raise_shadow (k : TrapKind) (a : Option Word) : (s.raise k a).shadow = s.shadow := rfl
@[simp] theorem State.raise_sp (k : TrapKind) (a : Option Word) : (s.raise k a).sp = s.sp := rfl
@[simp] theorem State.raise_spslot (k : TrapKind) (a : Option Word) : (s.raise k a).spslot = s.spslot := rfl
@[simp] theorem State.raise_pc (k : TrapKind) (a : Option Word) : (s.raise k a).pc = s.pc := rfl
@[simp] theorem State.raise_psw (k : TrapKind) (a : Option Word) : (s.raise k a).psw = s.psw := rfl
@[simp] theorem State.raise_latch (k : TrapKind) (a : Option Word) : (s.raise k a).latch = s.latch := rfl
@[simp] theorem State.raise_core (k : TrapKind) (a : Option Word) : (s.raise k a).core = s.core := rfl
@[simp] theorem State.raise_devices (k : TrapKind) (a : Option Word) : (s.raise k a).devices = s.devices := rfl
@[simp] theorem State.raise_deviceLog (k : TrapKind) (a : Option Word) : (s.raise k a).deviceLog = s.deviceLog := rfl
@[simp] theorem State.raise_params (k : TrapKind) (a : Option Word) : (s.raise k a).params = s.params := rfl
@[simp] theorem State.raise_thunks (k : TrapKind) (a : Option Word) : (s.raise k a).thunks = s.thunks := rfl

/-! ## raiseIllegal -/

@[simp] theorem State.raiseIllegal_live : (s.raiseIllegal).live = s.live := rfl
@[simp] theorem State.raiseIllegal_shadow : (s.raiseIllegal).shadow = s.shadow := rfl
@[simp] theorem State.raiseIllegal_sp : (s.raiseIllegal).sp = s.sp := rfl
@[simp] theorem State.raiseIllegal_spslot : (s.raiseIllegal).spslot = s.spslot := rfl
@[simp] theorem State.raiseIllegal_pc : (s.raiseIllegal).pc = s.pc := rfl
@[simp] theorem State.raiseIllegal_psw : (s.raiseIllegal).psw = s.psw := rfl
@[simp] theorem State.raiseIllegal_latch : (s.raiseIllegal).latch = s.latch := rfl
@[simp] theorem State.raiseIllegal_core : (s.raiseIllegal).core = s.core := rfl
@[simp] theorem State.raiseIllegal_devices : (s.raiseIllegal).devices = s.devices := rfl
@[simp] theorem State.raiseIllegal_deviceLog : (s.raiseIllegal).deviceLog = s.deviceLog := rfl
@[simp] theorem State.raiseIllegal_params : (s.raiseIllegal).params = s.params := rfl
@[simp] theorem State.raiseIllegal_thunks : (s.raiseIllegal).thunks = s.thunks := rfl

/-! ## logCall -/

@[simp] theorem State.logCall_live (c : DeviceCall) : (s.logCall c).live = s.live := rfl
@[simp] theorem State.logCall_shadow (c : DeviceCall) : (s.logCall c).shadow = s.shadow := rfl
@[simp] theorem State.logCall_sp (c : DeviceCall) : (s.logCall c).sp = s.sp := rfl
@[simp] theorem State.logCall_spslot (c : DeviceCall) : (s.logCall c).spslot = s.spslot := rfl
@[simp] theorem State.logCall_pc (c : DeviceCall) : (s.logCall c).pc = s.pc := rfl
@[simp] theorem State.logCall_psw (c : DeviceCall) : (s.logCall c).psw = s.psw := rfl
@[simp] theorem State.logCall_trap (c : DeviceCall) : (s.logCall c).trap = s.trap := rfl
@[simp] theorem State.logCall_latch (c : DeviceCall) : (s.logCall c).latch = s.latch := rfl
@[simp] theorem State.logCall_core (c : DeviceCall) : (s.logCall c).core = s.core := rfl
@[simp] theorem State.logCall_devices (c : DeviceCall) : (s.logCall c).devices = s.devices := rfl
@[simp] theorem State.logCall_params (c : DeviceCall) : (s.logCall c).params = s.params := rfl
@[simp] theorem State.logCall_thunks (c : DeviceCall) : (s.logCall c).thunks = s.thunks := rfl

/-! ## coreWrite -/

@[simp] theorem State.coreWrite_live (a : Word) (sz : Size) (v : Word) : (s.coreWrite a sz v).live = s.live := by cases sz <;> rfl
@[simp] theorem State.coreWrite_shadow (a : Word) (sz : Size) (v : Word) : (s.coreWrite a sz v).shadow = s.shadow := by cases sz <;> rfl
@[simp] theorem State.coreWrite_sp (a : Word) (sz : Size) (v : Word) : (s.coreWrite a sz v).sp = s.sp := by cases sz <;> rfl
@[simp] theorem State.coreWrite_spslot (a : Word) (sz : Size) (v : Word) : (s.coreWrite a sz v).spslot = s.spslot := by cases sz <;> rfl
@[simp] theorem State.coreWrite_pc (a : Word) (sz : Size) (v : Word) : (s.coreWrite a sz v).pc = s.pc := by cases sz <;> rfl
@[simp] theorem State.coreWrite_psw (a : Word) (sz : Size) (v : Word) : (s.coreWrite a sz v).psw = s.psw := by cases sz <;> rfl
@[simp] theorem State.coreWrite_trap (a : Word) (sz : Size) (v : Word) : (s.coreWrite a sz v).trap = s.trap := by cases sz <;> rfl
@[simp] theorem State.coreWrite_latch (a : Word) (sz : Size) (v : Word) : (s.coreWrite a sz v).latch = s.latch := by cases sz <;> rfl
@[simp] theorem State.coreWrite_devices (a : Word) (sz : Size) (v : Word) : (s.coreWrite a sz v).devices = s.devices := by cases sz <;> rfl
@[simp] theorem State.coreWrite_deviceLog (a : Word) (sz : Size) (v : Word) : (s.coreWrite a sz v).deviceLog = s.deviceLog := by cases sz <;> rfl
@[simp] theorem State.coreWrite_params (a : Word) (sz : Size) (v : Word) : (s.coreWrite a sz v).params = s.params := by cases sz <;> rfl
@[simp] theorem State.coreWrite_thunks (a : Word) (sz : Size) (v : Word) : (s.coreWrite a sz v).thunks = s.thunks := by cases sz <;> rfl

/-! ## noteStore -/

@[simp] theorem State.noteStore_live (a : Word) : (s.noteStore a).live = s.live := by unfold State.noteStore; split <;> rfl
@[simp] theorem State.noteStore_shadow (a : Word) : (s.noteStore a).shadow = s.shadow := by unfold State.noteStore; split <;> rfl
@[simp] theorem State.noteStore_sp (a : Word) : (s.noteStore a).sp = s.sp := by unfold State.noteStore; split <;> rfl
@[simp] theorem State.noteStore_spslot (a : Word) : (s.noteStore a).spslot = s.spslot := by unfold State.noteStore; split <;> rfl
@[simp] theorem State.noteStore_pc (a : Word) : (s.noteStore a).pc = s.pc := by unfold State.noteStore; split <;> rfl
@[simp] theorem State.noteStore_psw (a : Word) : (s.noteStore a).psw = s.psw := by unfold State.noteStore; split <;> rfl
@[simp] theorem State.noteStore_trap (a : Word) : (s.noteStore a).trap = s.trap := by unfold State.noteStore; split <;> rfl
@[simp] theorem State.noteStore_latch (a : Word) : (s.noteStore a).latch = s.latch := by unfold State.noteStore; split <;> rfl
@[simp] theorem State.noteStore_core (a : Word) : (s.noteStore a).core = s.core := by unfold State.noteStore; split <;> rfl
@[simp] theorem State.noteStore_devices (a : Word) : (s.noteStore a).devices = s.devices := by unfold State.noteStore; split <;> rfl
@[simp] theorem State.noteStore_deviceLog (a : Word) : (s.noteStore a).deviceLog = s.deviceLog := by unfold State.noteStore; split <;> rfl
@[simp] theorem State.noteStore_params (a : Word) : (s.noteStore a).params = s.params := by unfold State.noteStore; split <;> rfl

/-! ## noteExecuted -/

@[simp] theorem State.noteExecuted_live (a : Word) : (s.noteExecuted a).live = s.live := by unfold State.noteExecuted; split <;> rfl
@[simp] theorem State.noteExecuted_shadow (a : Word) : (s.noteExecuted a).shadow = s.shadow := by unfold State.noteExecuted; split <;> rfl
@[simp] theorem State.noteExecuted_sp (a : Word) : (s.noteExecuted a).sp = s.sp := by unfold State.noteExecuted; split <;> rfl
@[simp] theorem State.noteExecuted_spslot (a : Word) : (s.noteExecuted a).spslot = s.spslot := by unfold State.noteExecuted; split <;> rfl
@[simp] theorem State.noteExecuted_pc (a : Word) : (s.noteExecuted a).pc = s.pc := by unfold State.noteExecuted; split <;> rfl
@[simp] theorem State.noteExecuted_psw (a : Word) : (s.noteExecuted a).psw = s.psw := by unfold State.noteExecuted; split <;> rfl
@[simp] theorem State.noteExecuted_trap (a : Word) : (s.noteExecuted a).trap = s.trap := by unfold State.noteExecuted; split <;> rfl
@[simp] theorem State.noteExecuted_latch (a : Word) : (s.noteExecuted a).latch = s.latch := by unfold State.noteExecuted; split <;> rfl
@[simp] theorem State.noteExecuted_core (a : Word) : (s.noteExecuted a).core = s.core := by unfold State.noteExecuted; split <;> rfl
@[simp] theorem State.noteExecuted_devices (a : Word) : (s.noteExecuted a).devices = s.devices := by unfold State.noteExecuted; split <;> rfl
@[simp] theorem State.noteExecuted_deviceLog (a : Word) : (s.noteExecuted a).deviceLog = s.deviceLog := by unfold State.noteExecuted; split <;> rfl
@[simp] theorem State.noteExecuted_params (a : Word) : (s.noteExecuted a).params = s.params := by unfold State.noteExecuted; split <;> rfl

/-! ## swapBanks -/

@[simp] theorem State.swapBanks_sp : (s.swapBanks).sp = s.sp := rfl
@[simp] theorem State.swapBanks_spslot : (s.swapBanks).spslot = s.spslot := rfl
@[simp] theorem State.swapBanks_pc : (s.swapBanks).pc = s.pc := rfl
@[simp] theorem State.swapBanks_psw : (s.swapBanks).psw = s.psw := rfl
@[simp] theorem State.swapBanks_trap : (s.swapBanks).trap = s.trap := rfl
@[simp] theorem State.swapBanks_latch : (s.swapBanks).latch = s.latch := rfl
@[simp] theorem State.swapBanks_core : (s.swapBanks).core = s.core := rfl
@[simp] theorem State.swapBanks_devices : (s.swapBanks).devices = s.devices := rfl
@[simp] theorem State.swapBanks_deviceLog : (s.swapBanks).deviceLog = s.deviceLog := rfl
@[simp] theorem State.swapBanks_params : (s.swapBanks).params = s.params := rfl
@[simp] theorem State.swapBanks_thunks : (s.swapBanks).thunks = s.thunks := rfl

/-! ## switchMode -/

@[simp] theorem State.switchMode_live (m n : BitVec 2) : (s.switchMode m n).live = s.live := rfl
@[simp] theorem State.switchMode_shadow (m n : BitVec 2) : (s.switchMode m n).shadow = s.shadow := rfl
@[simp] theorem State.switchMode_pc (m n : BitVec 2) : (s.switchMode m n).pc = s.pc := rfl
@[simp] theorem State.switchMode_psw (m n : BitVec 2) : (s.switchMode m n).psw = s.psw := rfl
@[simp] theorem State.switchMode_trap (m n : BitVec 2) : (s.switchMode m n).trap = s.trap := rfl
@[simp] theorem State.switchMode_latch (m n : BitVec 2) : (s.switchMode m n).latch = s.latch := rfl
@[simp] theorem State.switchMode_core (m n : BitVec 2) : (s.switchMode m n).core = s.core := rfl
@[simp] theorem State.switchMode_devices (m n : BitVec 2) : (s.switchMode m n).devices = s.devices := rfl
@[simp] theorem State.switchMode_deviceLog (m n : BitVec 2) : (s.switchMode m n).deviceLog = s.deviceLog := rfl
@[simp] theorem State.switchMode_params (m n : BitVec 2) : (s.switchMode m n).params = s.params := rfl
@[simp] theorem State.switchMode_thunks (m n : BitVec 2) : (s.switchMode m n).thunks = s.thunks := rfl

/-! ## writePSW -/

@[simp] theorem State.writePSW_pc (v : Word) : (s.writePSW v).pc = s.pc := by unfold State.writePSW; dsimp only; split <;> split <;> rfl
@[simp] theorem State.writePSW_trap (v : Word) : (s.writePSW v).trap = s.trap := by unfold State.writePSW; dsimp only; split <;> split <;> rfl
@[simp] theorem State.writePSW_latch (v : Word) : (s.writePSW v).latch = s.latch := by unfold State.writePSW; dsimp only; split <;> split <;> rfl
@[simp] theorem State.writePSW_core (v : Word) : (s.writePSW v).core = s.core := by unfold State.writePSW; dsimp only; split <;> split <;> rfl
@[simp] theorem State.writePSW_devices (v : Word) : (s.writePSW v).devices = s.devices := by unfold State.writePSW; dsimp only; split <;> split <;> rfl
@[simp] theorem State.writePSW_deviceLog (v : Word) : (s.writePSW v).deviceLog = s.deviceLog := by unfold State.writePSW; dsimp only; split <;> split <;> rfl
@[simp] theorem State.writePSW_params (v : Word) : (s.writePSW v).params = s.params := by unfold State.writePSW; dsimp only; split <;> split <;> rfl
@[simp] theorem State.writePSW_thunks (v : Word) : (s.writePSW v).thunks = s.thunks := by unfold State.writePSW; dsimp only; split <;> split <;> rfl

/-! ## The fields an update writes -/

@[simp] theorem State.setCC_psw (cc : CC) : (s.setCC cc).psw = s.psw &&& 0o177760 ||| cc.toWord := rfl

@[simp] theorem State.raise_trap (k : TrapKind) (a : Option Word) :
    (s.raise k a).trap = some
      { kind := k, vector := vectorOf k, instAddr := s.latch.instAddr, opcode := s.latch.opcode, faultAddr := a } := rfl

@[simp] theorem State.raiseIllegal_trap :
    s.raiseIllegal.trap = some
      { kind := .fault .illegalInstruction, vector := some 0o010, instAddr := s.latch.instAddr,
        opcode := s.latch.opcode, faultAddr := none } := rfl

@[simp] theorem State.logCall_deviceLog (c : DeviceCall) : (s.logCall c).deviceLog = s.deviceLog ++ [c] := rfl

@[simp] theorem State.swapBanks_live : s.swapBanks.live = s.shadow := rfl

@[simp] theorem State.swapBanks_shadow : s.swapBanks.shadow = s.live := rfl

@[simp] theorem State.switchMode_spslot (m n : BitVec 2) : (s.switchMode m n).spslot = s.spslot.set m s.sp := rfl

@[simp] theorem State.switchMode_sp (m n : BitVec 2) : (s.switchMode m n).sp = (s.spslot.set m s.sp).get n := rfl

@[simp] theorem State.writePSW_psw (v : Word) : (s.writePSW v).psw = v &&& pswMask := rfl

@[simp] theorem State.coreWrite_byte_core (a v : Word) :
    (s.coreWrite a .byte v).core = s.core.write a.toNat (lowByte v) := rfl

@[simp] theorem State.coreWrite_word_core (a v : Word) :
    (s.coreWrite a .word v).core = (s.core.write a.toNat (lowByte v)).write (a.toNat + 1) (highByte v) := rfl

/-! ## The register view -/

/-- A register read after a register write (10_state.md R19). -/
theorem State.setX_x (r q : Reg) (v : Word) : (s.setX r v).x q = if q = r then v else s.x q := by
  cases r <;> cases q <;> rfl

@[simp] theorem State.setX_x_same (r : Reg) (v : Word) : (s.setX r v).x r = v := by
  rw [State.setX_x, if_pos rfl]

theorem State.setX_x_other {r q : Reg} (h : q ≠ r) (v : Word) : (s.setX r v).x q = s.x q := by
  rw [State.setX_x, if_neg h]

@[simp] theorem State.x_pc : s.x .pc = s.pc := rfl

@[simp] theorem State.x_sp : s.x .sp = s.sp := rfl

/-- Setting `pc` is the register write of x[7] (00_scope.md R12). -/
theorem State.setPc_eq (v : Word) : { s with pc := v } = s.setX .pc v := rfl

/-- Setting `sp` is the register write of x[6] (00_scope.md R12). -/
theorem State.setSp_eq (v : Word) : { s with sp := v } = s.setX .sp v := rfl

/-- The register view depends on the live bank, `sp` and `pc` only. -/
theorem State.x_congr {s t : State} (hl : t.live = s.live) (hs : t.sp = s.sp) (hp : t.pc = s.pc) (r : Reg) :
    t.x r = s.x r := by
  cases r <;> simp [State.x, hl, hs, hp]

@[simp] theorem State.setCC_x (cc : CC) (q : Reg) : (s.setCC cc).x q = s.x q :=
  State.x_congr (by simp) (by simp) (by simp) q

@[simp] theorem State.raise_x (k : TrapKind) (a : Option Word) (q : Reg) : (s.raise k a).x q = s.x q :=
  State.x_congr (by simp) (by simp) (by simp) q

@[simp] theorem State.raiseIllegal_x (q : Reg) : (s.raiseIllegal).x q = s.x q :=
  State.x_congr (by simp) (by simp) (by simp) q

@[simp] theorem State.logCall_x (c : DeviceCall) (q : Reg) : (s.logCall c).x q = s.x q :=
  State.x_congr (by simp) (by simp) (by simp) q

@[simp] theorem State.coreWrite_x (a : Word) (sz : Size) (v : Word) (q : Reg) : (s.coreWrite a sz v).x q = s.x q :=
  State.x_congr (by simp) (by simp) (by simp) q

@[simp] theorem State.noteStore_x (a : Word) (q : Reg) : (s.noteStore a).x q = s.x q :=
  State.x_congr (by simp) (by simp) (by simp) q

@[simp] theorem State.noteExecuted_x (a : Word) (q : Reg) : (s.noteExecuted a).x q = s.x q :=
  State.x_congr (by simp) (by simp) (by simp) q

/-! ## Going on, and ending -/

@[simp] theorem Res.bind_ok {α β : Type} (v : α) (k : α → State → Res β) : (Res.ok v s).bind k = k v s := rfl

@[simp] theorem Res.bind_trapped {α β : Type} (k : α → State → Res β) : (Res.trapped s).bind k = .trapped s := rfl

@[simp] theorem Res.bind_stuck {α β : Type} (f : Fault) (k : α → State → Res β) :
    (Res.stuck f).bind k = .stuck f := rfl

@[simp] theorem Res.outcome_ok : (Res.ok () s).outcome = .next s := rfl

@[simp] theorem Res.outcome_trapped : (Res.trapped s).outcome = .next s := rfl

@[simp] theorem Res.outcome_stuck (f : Fault) : (Res.stuck f).outcome = .fault f := rfl

/-- A bind that goes on: its first part went on, and then its second did. -/
theorem Res.bind_eq_ok {α β : Type} {r : Res α} {k : α → State → Res β} {v : β} {t : State}
    (h : r.bind k = .ok v t) : ∃ a u, r = .ok a u ∧ k a u = .ok v t := by
  cases r with
  | ok a u => exact ⟨a, u, rfl, h⟩
  | trapped u => cases h
  | stuck f => cases h

/-- An instruction answers a next state exactly when it goes on to it or traps in it. -/
theorem Res.outcome_eq_next {r : Res Unit} {t : State} (h : r.outcome = .next t) : r = .ok () t ∨ r = .trapped t := by
  cases r with
  | ok v u => cases h; exact .inl rfl
  | trapped u => cases h; exact .inr rfl
  | stuck f => cases h

end Sys2Proof.Machine
end

