-- ==== Sys2Proof/Laws/Access.lean ====
section
/-! SUPPORT. What one access can do: a load that goes on changes only the log of device calls; an access that traps
changes only that log and the trap record; a store that goes on changes core memory, or the log. -/

namespace Sys2Proof.Machine

/-- A load that goes on changes nothing but the log of device calls. -/
theorem memRead_ok {s t : State} {a v : Word} {sz : Size} (h : s.memRead a sz = .ok v t) :
    ∃ l, t = { s with deviceLog := s.deviceLog ++ l } := by
  unfold State.memRead at h
  split at h
  · cases h
  · split at h
    · cases h
      exact ⟨[], by simp⟩
    · split at h
      · cases h
      · simp only [State.deviceLoad] at h
        split at h
        · cases h
          exact ⟨_, rfl⟩
        · cases h
        · cases h

/-- A load that traps changes nothing but the log of device calls and the trap record. -/
theorem memRead_trapped {s t : State} {a : Word} {sz : Size} (h : s.memRead a sz = .trapped t) :
    ∃ l k, t = { s with deviceLog := s.deviceLog ++ l }.raise (.fault k) (some a) := by
  unfold State.memRead at h
  split at h
  · cases h
    exact ⟨[], _, by simp; rfl⟩
  · split at h
    · cases h
    · split at h
      · cases h
        exact ⟨[], _, by simp; rfl⟩
      · simp only [State.deviceLoad] at h
        split at h
        · cases h
        · cases h
          exact ⟨_, _, rfl⟩
        · cases h

/-- A store that traps changes nothing but the log of device calls and the trap record (20_memory.md R52). -/
theorem memWrite_trapped {s t : State} {a v : Word} {sz : Size} (h : s.memWrite a sz v = .trapped t) :
    ∃ l k, t = { s with deviceLog := s.deviceLog ++ l }.raise (.fault k) (some a) := by
  unfold State.memWrite at h
  split at h
  · cases h
    exact ⟨[], _, by simp; rfl⟩
  · split at h
    · cases h
    · split at h
      · cases h
        exact ⟨[], _, by simp; rfl⟩
      · simp only [State.deviceStore] at h
        split at h
        · cases h
        · cases h
          exact ⟨_, _, rfl⟩
        · cases h

/-- A store that goes on is a write of core memory, or a device call, and the mark of `TCACHE = ON`. -/
theorem memWrite_ok {s t : State} {a v : Word} {sz : Size} (h : s.memWrite a sz v = .ok () t) :
    ¬ misaligned a sz ∧
      (s.inCore a ∧ t = (s.coreWrite a sz v).noteStore a ∨
        ¬ s.inCore a ∧ ∃ b, s.deviceLookup a = some b ∧
          t = (s.logCall (callOf b (.store (bufferOf v sz)) a sz)).noteStore a) := by
  unfold State.memWrite at h
  split at h
  · cases h
  · rename_i hm
    refine ⟨hm, ?_⟩
    split at h
    · rename_i hc
      cases h
      exact .inl ⟨hc, rfl⟩
    · rename_i hc
      split at h
      · cases h
      · rename_i b hb
        simp only [State.deviceStore] at h
        split at h
        · cases h
          exact .inr ⟨hc, b, hb, rfl⟩
        · cases h
        · cases h

/-- An access to core memory at an admitted address reads core memory and changes nothing (20_memory.md R44). -/
theorem memRead_core {s : State} {a : Word} {sz : Size} (hm : ¬ misaligned a sz) (hc : s.inCore a) :
    s.memRead a sz = .ok (s.coreRead a sz) s := by
  unfold State.memRead
  rw [if_neg hm, if_pos hc]

/-- A store to core memory at an admitted address goes on. -/
theorem memWrite_core {s : State} {a v : Word} {sz : Size} (hm : ¬ misaligned a sz) (hc : s.inCore a) :
    s.memWrite a sz v = .ok () ((s.coreWrite a sz v).noteStore a) := by
  unfold State.memWrite
  rw [if_neg hm, if_pos hc]

/-- All that a fetch that goes on does: `pc` steps, and a call may be logged (20_memory.md R56). -/
theorem fetch_ok {s t : State} {w : Word} (h : s.fetch = .ok w t) :
    ∃ l, t = { s with pc := s.pc + 2, deviceLog := s.deviceLog ++ l } := by
  obtain ⟨v, u, hr, hk⟩ := Res.bind_eq_ok h
  obtain ⟨l, rfl⟩ := memRead_ok hr
  cases hk
  exact ⟨l, rfl⟩

/-- All that an opcode fetch that goes on does (70_reset_and_hazards.md R214). -/
theorem fetchOpcode_ok {s t : State} {w : Word} (h : s.fetchOpcode = .ok w t) :
    ∃ l, t = { s with
      pc := s.pc + 2, latch := { instAddr := s.pc, opcode := some w }, deviceLog := s.deviceLog ++ l } := by
  obtain ⟨v, u, hf, hk⟩ := Res.bind_eq_ok h
  obtain ⟨l, rfl⟩ := fetch_ok hf
  cases hk
  exact ⟨l, rfl⟩

end Sys2Proof.Machine
end

