-- ==== Sys2Proof/Laws/Closed.lean ====
section
/-! SUPPORT. What an instruction can do, said once. Every change an operation makes to the state is one of a few
updates; a property that those updates keep is kept by every shared operation and every meaning. `Closed W A C Q P`
says that `P` is kept by a write of a register in `W`, by a store of a size to an address in `A`, by a write of the
condition codes that `C` relates to the old ones, and by the other updates; and that a device that never answers gives
`Q`. -/

namespace Sys2Proof.Machine

/-- Every state a result holds has `P`, and a stuck result gives `Q`. -/
def Res.All {α : Type} (Q : Prop) (P : State → Prop) : Res α → Prop
  | .ok _ s => P s
  | .trapped s => P s
  | .stuck _ => Q

/-- The updates the operations of an instruction make, and a property they keep. -/
structure Closed (W : Reg → Prop) (A : Word → Size → Prop) (C : CC → CC → Prop) (Q : Prop) (P : State → Prop) :
    Prop where
  setX : ∀ s r v, W r → P s → P (s.setX r v)
  setCC : ∀ s cc, C s.cc cc → P s → P (s.setCC cc)
  raiseOdd : ∀ s a, a.getLsbD 0 = true → P s → P (s.raise (.fault .oddAddress) (some a))
  raiseNone : ∀ s a, ¬ s.inCore a → s.deviceLookup a = none → P s → P (s.raise (.fault .nonexistentAddress) (some a))
  raiseDevice : ∀ s k a b, ¬ s.inCore a → s.deviceLookup a = some b → P s → P (s.raise (.fault k) (some a))
  logCall : ∀ s b op a sz, ¬ s.inCore a → s.deviceLookup a = some b → P s → P (s.logCall (callOf b op a sz))
  coreWrite : ∀ s a sz v, A a sz → ¬ misaligned a sz → s.inCore a → P s → P (s.coreWrite a sz v)
  noteStore : ∀ s a, P s → P (s.noteStore a)
  stuck : ∀ s a b, ¬ s.inCore a → s.deviceLookup a = some b → P s → Q

variable {W : Reg → Prop} {A : Word → Size → Prop} {C : CC → CC → Prop} {Q : Prop} {P : State → Prop}

theorem Res.All_bind {α β : Type} {r : Res α} {k : α → State → Res β} (hr : r.All Q P)
    (hk : ∀ v s, r = .ok v s → P s → (k v s).All Q P) : (r.bind k).All Q P := by
  cases r with
  | ok v s => exact hk v s rfl hr
  | trapped s => exact hr
  | stuck f => exact hr

theorem Res.All_of_ok {α : Type} {r : Res α} (h : r.All Q P) {v : α} {t : State} (e : r = .ok v t) : P t := by
  rw [e] at h
  exact h

theorem Res.All_of_trapped {α : Type} {r : Res α} (h : r.All Q P) {t : State} (e : r = .trapped t) : P t := by
  rw [e] at h
  exact h

/-- An instruction's outcome keeps what its operations keep. -/
theorem Res.All_outcome {r : Res Unit} (h : r.All Q P) {t : State} (ht : r.outcome = .next t) : P t := by
  rcases Res.outcome_eq_next ht with rfl | rfl <;> exact h

/-- An instruction whose operations cannot be stuck answers a next state. -/
theorem Res.All_next {r : Res Unit} (h : r.All False P) : ∃ t, r.outcome = .next t ∧ P t := by
  cases r with
  | ok v s => exact ⟨s, rfl, h⟩
  | trapped s => exact ⟨s, rfl, h⟩
  | stuck f => exact h.elim

section
variable (hP : Closed W A C Q P)
include hP

theorem memRead_all {s : State} (a : Word) (sz : Size) (h : P s) : (s.memRead a sz).All Q P := by
  unfold State.memRead
  split
  · rename_i hm
    exact hP.raiseOdd _ _ hm.2 h
  · split
    · exact h
    · split
      · rename_i hc _ hb
        exact hP.raiseNone _ _ hc hb h
      · rename_i hc _ b hb
        simp only [State.deviceLoad]
        split
        · exact hP.logCall _ _ _ _ _ hc hb h
        · exact hP.raiseDevice _ _ _ b hc hb (hP.logCall _ _ _ _ _ hc hb h)
        · exact hP.stuck s a b hc hb h

theorem memWrite_all {s : State} {a : Word} {sz : Size} (v : Word) (ha : A a sz) (h : P s) :
    (s.memWrite a sz v).All Q P := by
  unfold State.memWrite
  split
  · rename_i hm
    exact hP.raiseOdd _ _ hm.2 h
  · rename_i hm
    split
    · rename_i hc
      exact hP.noteStore _ _ (hP.coreWrite _ _ _ _ ha hm hc h)
    · split
      · rename_i hc _ hb
        exact hP.raiseNone _ _ hc hb h
      · rename_i hc _ b hb
        simp only [State.deviceStore]
        split
        · exact hP.noteStore _ _ (hP.logCall _ _ _ _ _ hc hb h)
        · exact hP.raiseDevice _ _ _ b hc hb (hP.logCall _ _ _ _ _ hc hb h)
        · exact hP.stuck s a b hc hb h

theorem fetch_all {s : State} (hpc : W .pc) (h : P s) : s.fetch.All Q P :=
  Res.All_bind (memRead_all hP _ _ h) fun _ u _ hu => hP.setX u .pc _ hpc hu

theorem push_all {s : State} (v : Word) (hsp : W .sp) (ha : A (s.sp - 2) .word) (h : P s) : (s.push v).All Q P :=
  memWrite_all hP v ha (hP.setX s .sp _ hsp h)

theorem resolve_all (o : Operand) (sz : Size) {s : State} (hW : ∀ r, touches o r → W r) (h : P s) :
    (resolve o sz s).All Q P := by
  unfold resolve touches at *
  split <;> rename_i hm <;> simp only [hm] at hW
  · exact h
  · exact h
  · exact hP.setX _ _ _ (hW _ rfl) h
  · exact Res.All_bind (memRead_all hP _ _ h) fun _ u _ hu => hP.setX u _ _ (hW _ rfl) hu
  · exact hP.setX _ _ _ (hW _ rfl) h
  · exact Res.All_bind (memRead_all hP _ _ (hP.setX _ _ _ (hW _ rfl) h)) fun _ _ _ hu => hu
  · exact Res.All_bind (fetch_all hP (hW _ rfl) h) fun _ _ _ hu => hu
  · exact Res.All_bind (fetch_all hP (hW _ rfl) h) fun _ _ _ hu =>
      Res.All_bind (memRead_all hP _ _ hu) fun _ _ _ hu => hu

theorem readOp_all (loc : Loc) (sz : Size) {s : State} (h : P s) : (readOp loc sz s).All Q P := by
  cases loc with
  | reg r => exact h
  | mem a => exact memRead_all hP a sz h

theorem writeOp_all {loc : Loc} {sz : Size} (v : Word) {s : State} (hr : ∀ r, loc = .reg r → W r)
    (ha : ∀ a, loc = .mem a → A a sz) (h : P s) : (writeOp loc sz v s).All Q P := by
  cases loc with
  | reg r => exact hP.setX _ _ _ (hr r rfl) h
  | mem a => exact memWrite_all hP v (ha a rfl) h

theorem writeMovb_all {loc : Loc} (v : Word) {s : State} (hr : ∀ r, loc = .reg r → W r)
    (ha : ∀ a, loc = .mem a → A a .byte) (h : P s) : (writeMovb loc v s).All Q P := by
  cases loc with
  | reg r => exact hP.setX _ _ _ (hr r rfl) h
  | mem a => exact memWrite_all hP v (ha a rfl) h

theorem readOperand_all (o : Operand) (sz : Size) {s : State} (hW : ∀ r, touches o r → W r) (h : P s) :
    (readOperand o sz s).All Q P :=
  Res.All_bind (resolve_all hP o sz hW h) fun _ _ _ hu => readOp_all hP _ sz hu

theorem oneOperand_all (sz : Size) (o : Operand) {s : State} (hW : ∀ r, touches o r → W r) (h : P s) :
    (oneOperand sz o s).All Q P :=
  Res.All_bind (resolve_all hP o sz hW h) fun _ _ _ hu =>
    Res.All_bind (readOp_all hP _ sz hu) fun _ _ _ hu => hu

theorem twoOperands_all (sz : Size) (src dst : Operand) {s : State} (hs : ∀ r, touches src r → W r)
    (hd : ∀ r, touches dst r → W r) (h : P s) : (twoOperands sz src dst s).All Q P := by
  unfold twoOperands
  split
  · exact Res.All_bind (readOperand_all hP src sz hs h) fun _ _ _ hu =>
      Res.All_bind (oneOperand_all hP sz dst hd hu) fun _ _ _ hu => hu
  · exact Res.All_bind (resolve_all hP src sz hs h) fun _ _ _ hu =>
      Res.All_bind (resolve_all hP dst sz hd hu) fun _ _ _ hu =>
      Res.All_bind (readOp_all hP _ sz hu) fun _ _ _ hu =>
      Res.All_bind (readOp_all hP _ sz hu) fun _ _ _ hu => hu

theorem moveOperands_all (sz : Size) (src dst : Operand) {flags : Word → CC → CC} {s : State}
    (hf : ∀ v cc, C cc (flags v cc)) (hs : ∀ r, touches src r → W r) (hd : ∀ r, touches dst r → W r) (h : P s) :
    (moveOperands sz src dst flags s).All Q P := by
  unfold moveOperands
  split
  · exact Res.All_bind (readOperand_all hP src sz hs h) fun _ _ _ hu =>
      Res.All_bind (resolve_all hP dst sz hd (hP.setCC _ _ (hf _ _) hu)) fun _ _ _ hu => hu
  · exact Res.All_bind (resolve_all hP src sz hs h) fun _ _ _ hu =>
      Res.All_bind (resolve_all hP dst sz hd hu) fun _ _ _ hu =>
      Res.All_bind (readOp_all hP _ sz hu) fun _ _ _ hu => hP.setCC _ _ (hf _ _) hu

end

/-! ## The locator a resolution gives -/

/-- Mode 0 gives the specifier's register (20_memory.md R59). -/
theorem resolve_register {o : Operand} (h : o.mode = .register) (sz : Size) (s : State) :
    resolve o sz s = .ok (.reg o.reg) s := by
  unfold resolve
  rw [h]

/-- Every other mode gives a memory address (20_memory.md R60 to R66). -/
theorem resolve_memory {o : Operand} (h : o.mode ≠ .register) {sz : Size} {s t : State} {loc : Loc}
    (hr : resolve o sz s = .ok loc t) : ∃ a, loc = .mem a := by
  unfold resolve at hr
  split at hr
  · exact absurd ‹_› h
  · cases hr; exact ⟨_, rfl⟩
  · cases hr; exact ⟨_, rfl⟩
  · obtain ⟨a, u, -, h2⟩ := Res.bind_eq_ok hr; cases h2; exact ⟨_, rfl⟩
  · cases hr; exact ⟨_, rfl⟩
  · obtain ⟨a, u, -, h2⟩ := Res.bind_eq_ok hr; cases h2; exact ⟨_, rfl⟩
  · obtain ⟨a, u, -, h2⟩ := Res.bind_eq_ok hr; cases h2; exact ⟨_, rfl⟩
  · obtain ⟨a, u, -, h2⟩ := Res.bind_eq_ok hr
    obtain ⟨b, w, -, h3⟩ := Res.bind_eq_ok h2
    cases h3; exact ⟨_, rfl⟩

/-- A locator that is a register is the specifier's own, in mode 0. -/
theorem resolve_reg {o : Operand} {sz : Size} {s t : State} {r : Reg} (hr : resolve o sz s = .ok (.reg r) t) :
    o.mode = .register ∧ r = o.reg := by
  by_cases h : o.mode = .register
  · rw [resolve_register h] at hr
    cases hr
    exact ⟨h, rfl⟩
  · obtain ⟨a, ha⟩ := resolve_memory h hr
    cases ha

/-- The register destination of a one-operand instruction. -/
theorem oneOperand_reg {o : Operand} {sz : Size} {s t : State} {d : Word} {r : Reg}
    (h : oneOperand sz o s = .ok (d, .reg r) t) : o.mode = .register ∧ r = o.reg := by
  obtain ⟨loc, u, h1, h2⟩ := Res.bind_eq_ok h
  obtain ⟨w, u', -, h3⟩ := Res.bind_eq_ok h2
  cases h3
  exact resolve_reg h1

/-- The register destination of a two-operand instruction. -/
theorem twoOperands_reg {src dst : Operand} {sz : Size} {s t : State} {v d : Word} {r : Reg}
    (h : twoOperands sz src dst s = .ok (v, d, .reg r) t) : dst.mode = .register ∧ r = dst.reg := by
  unfold twoOperands at h
  split at h
  · obtain ⟨w, u, -, h2⟩ := Res.bind_eq_ok h
    obtain ⟨⟨d', loc⟩, u', h3, h4⟩ := Res.bind_eq_ok h2
    cases h4
    exact oneOperand_reg h3
  · obtain ⟨sl, u, -, h2⟩ := Res.bind_eq_ok h
    obtain ⟨dl, u', h3, h4⟩ := Res.bind_eq_ok h2
    obtain ⟨w, u2, -, h5⟩ := Res.bind_eq_ok h4
    obtain ⟨w', u3, -, h6⟩ := Res.bind_eq_ok h5
    cases h6
    exact resolve_reg h3

/-- The register destination of MOV or MOVB. -/
theorem moveOperands_reg {src dst : Operand} {sz : Size} {f : Word → CC → CC} {s t : State} {v : Word} {r : Reg}
    (h : moveOperands sz src dst f s = .ok (v, .reg r) t) : dst.mode = .register ∧ r = dst.reg := by
  unfold moveOperands at h
  split at h
  · obtain ⟨w, u, -, h2⟩ := Res.bind_eq_ok h
    obtain ⟨loc, u', h3, h4⟩ := Res.bind_eq_ok h2
    cases h4
    exact resolve_reg h3
  · obtain ⟨sl, u, -, h2⟩ := Res.bind_eq_ok h
    obtain ⟨dl, u', h3, h4⟩ := Res.bind_eq_ok h2
    obtain ⟨w, u2, -, h5⟩ := Res.bind_eq_ok h4
    cases h5
    exact resolve_reg h3

end Sys2Proof.Machine
end

