-- ==== Sys2Proof/Laws/Psw.lean ====
section
/-! SUPPORT. The PSW as bits: what writing the condition codes leaves, and CCODE as a write of the condition codes. -/

namespace Sys2Proof.Machine

/-- The condition codes in their PSW bits, bit by bit (10_state.md R28). -/
theorem CC.toWord_getLsbD (cc : CC) (i : Nat) :
    cc.toWord.getLsbD i =
      match i with
      | 0 => cc.c
      | 1 => cc.v
      | 2 => cc.z
      | 3 => cc.n
      | _ => false := by
  obtain ⟨n, z, v, c⟩ := cc
  rcases i with _ | _ | _ | _ | i
  · cases n <;> cases z <;> cases v <;> cases c <;> rfl
  · cases n <;> cases z <;> cases v <;> cases c <;> rfl
  · cases n <;> cases z <;> cases v <;> cases c <;> rfl
  · cases n <;> cases z <;> cases v <;> cases c <;> rfl
  · have : (CC.toWord ⟨n, z, v, c⟩).toNat < 2 ^ 4 := by
      cases n <;> cases z <;> cases v <;> cases c <;> decide
    simp only [BitVec.getLsbD]
    exact Nat.testBit_lt_two_pow (Nat.lt_of_lt_of_le this (Nat.pow_le_pow_right (by omega) (by omega)))

/-- The constant 0o177760, bit by bit: everything but the condition codes. -/
theorem highMask_getLsbD (i : Nat) : (0o177760 : Word).getLsbD i = decide (4 ≤ i ∧ i < 16) := by
  by_cases h : i < 16
  · have : ∀ j : Fin 16, (0o177760 : Word).getLsbD j = decide (4 ≤ j.val ∧ j.val < 16) := by decide
    exact this ⟨i, h⟩
  · rw [BitVec.getLsbD_of_ge _ _ (by omega)]
    simp [h]

/-- Each bit of a PSW after a write of the condition codes (10_state.md R32). -/
theorem setCC_getLsbD (s : State) (cc : CC) (i : Nat) :
    (s.setCC cc).psw.getLsbD i =
      match i with
      | 0 => cc.c
      | 1 => cc.v
      | 2 => cc.z
      | 3 => cc.n
      | _ => s.psw.getLsbD i := by
  rw [State.setCC_psw, BitVec.getLsbD_or, BitVec.getLsbD_and, highMask_getLsbD, CC.toWord_getLsbD]
  rcases i with _ | _ | _ | _ | i
  · simp
  · simp
  · simp
  · simp
  · by_cases h : i + 4 < 16
    · simp [h]
    · have : s.psw.getLsbD (i + 4) = false := BitVec.getLsbD_of_ge _ _ (by omega)
      simp [this]

/-- The condition codes written are the condition codes read. -/
@[simp] theorem State.setCC_cc (s : State) (cc : CC) : (s.setCC cc).cc = cc := by
  simp only [State.cc, ccOf, setCC_getLsbD]

/-- Writing the condition codes leaves every other PSW bit (10_state.md R32). -/
theorem setCC_high (s : State) (cc : CC) : (s.setCC cc).psw &&& 0o177760 = s.psw &&& 0o177760 := by
  apply BitVec.eq_of_getLsbD_eq
  intro i _
  rw [BitVec.getLsbD_and, BitVec.getLsbD_and, setCC_getLsbD, highMask_getLsbD]
  rcases i with _ | _ | _ | _ | i <;> simp

/-- Only the PSW's condition codes decide a write of them: the last write stays. -/
@[simp] theorem State.setCC_setCC (s : State) (a b : CC) : (s.setCC a).setCC b = s.setCC b := by
  have h : ((s.setCC a).setCC b).psw = (s.setCC b).psw := by
    simp only [State.setCC_psw (s.setCC a), setCC_high]
    rfl
  simp only [State.setCC] at h ⊢
  rw [h]

/-- CCODE is a write of the condition codes (46_system.md R181). -/
theorem ccode_eq_setCC (s : State) (set n z v c : Bool) :
    { s with
      psw := if set then s.psw ||| CC.toWord ⟨n, z, v, c⟩ else s.psw &&& ~~~(CC.toWord ⟨n, z, v, c⟩) } =
    s.setCC
      { n := if n then set else s.cc.n, z := if z then set else s.cc.z, v := if v then set else s.cc.v,
        c := if c then set else s.cc.c } := by
  simp only [State.setCC]
  congr 1
  apply BitVec.eq_of_getLsbD_eq
  intro i hi
  have key : (if set then s.psw ||| CC.toWord ⟨n, z, v, c⟩ else s.psw &&& ~~~(CC.toWord ⟨n, z, v, c⟩)).getLsbD i =
      if (CC.toWord ⟨n, z, v, c⟩).getLsbD i then set else s.psw.getLsbD i := by
    generalize CC.toWord ⟨n, z, v, c⟩ = m
    cases set <;> cases h : m.getLsbD i <;> rw [BitVec.getLsbD_eq_getElem hi] at h <;> simp [h, hi]
  rw [key, BitVec.getLsbD_or, BitVec.getLsbD_and, highMask_getLsbD, CC.toWord_getLsbD, CC.toWord_getLsbD]
  rcases i with _ | _ | _ | _ | i
  · simp [State.cc, ccOf]
  · simp [State.cc, ccOf]
  · simp [State.cc, ccOf]
  · simp [State.cc, ccOf]
  · simp [hi]

/-- The condition codes of a PSW value built from its high bits and a set of condition codes. -/
theorem ccOf_join (p : Word) (cc : CC) : ccOf (p &&& 0o177760 ||| cc.toWord) = cc := by
  simp only [ccOf, BitVec.getLsbD_or, BitVec.getLsbD_and, highMask_getLsbD, CC.toWord_getLsbD]
  simp

/-- A PSW value is its high bits and its condition codes. -/
theorem psw_split (p : Word) : p &&& 0o177760 ||| (ccOf p).toWord = p := by
  apply BitVec.eq_of_getLsbD_eq
  intro i hi
  rw [BitVec.getLsbD_or, BitVec.getLsbD_and, highMask_getLsbD, CC.toWord_getLsbD]
  rcases i with _ | _ | _ | _ | i
  · simp [ccOf]
  · simp [ccOf]
  · simp [ccOf]
  · simp [ccOf]
  · simp [hi]

/-! ## Stack-pointer slots -/

@[simp] theorem SpSlots.get_set_same (q : SpSlots) (m : BitVec 2) (v : Word) : (q.set m v).get m = v := by
  obtain ⟨m⟩ := m
  match m with
  | 0 => rfl
  | 1 => rfl
  | 2 => rfl
  | 3 => rfl

theorem SpSlots.get_set_other (q : SpSlots) {m n : BitVec 2} (h : n ≠ m) (v : Word) : (q.set m v).get n = q.get n := by
  obtain ⟨m⟩ := m
  obtain ⟨n⟩ := n
  match m, n with
  | 0, 0 | 1, 1 | 2, 2 | 3, 3 => exact absurd rfl h
  | 0, 1 | 0, 2 | 0, 3 | 1, 0 | 1, 2 | 1, 3 | 2, 0 | 2, 1 | 2, 3 | 3, 0 | 3, 1 | 3, 2 => rfl

end Sys2Proof.Machine
end

