-- ==== Sys2Proof/Laws/Exec.lean ====
section
/-! SUPPORT. What one instruction can do: a property that the updates of `Closed` keep is kept by every meaning but
the four that raise a pseudo-trap or write the whole PSW. -/

namespace Sys2Proof.Machine

variable {W : Reg → Prop} {A : Word → Size → Prop} {C : CC → CC → Prop} {Q : Prop} {P : State → Prop}

section
variable (hP : Closed W A C Q P)
include hP

theorem modifyTwo_all (sz : Size) (src dst : Operand) (f : Word → Word → Word) {g : Word → Word → CC → CC} {s : State}
    (hg : ∀ v d cc, C cc (g v d cc)) (hs : ∀ r, touches src r → W r) (hd : ∀ r, touches dst r → W r)
    (hr : dst.mode = .register → W dst.reg)
    (ha : ∀ v d a t, twoOperands sz src dst s = .ok (v, d, .mem a) t → A a sz) (h : P s) :
    (modifyTwo sz src dst f g s).All Q P :=
  Res.All_bind (twoOperands_all hP sz src dst hs hd h) fun ⟨v, d, loc⟩ u hu hPu =>
    writeOp_all hP _
      (fun r e => by
        obtain ⟨hm, he⟩ := twoOperands_reg (e ▸ hu)
        exact he ▸ hr hm)
      (fun a e => ha v d a u (e ▸ hu)) (hP.setCC _ _ (hg _ _ _) hPu)

theorem testTwo_all (sz : Size) (src dst : Operand) {g : Word → Word → CC → CC} {s : State}
    (hg : ∀ v d cc, C cc (g v d cc)) (hs : ∀ r, touches src r → W r) (hd : ∀ r, touches dst r → W r) (h : P s) :
    (testTwo sz src dst g s).All Q P :=
  Res.All_bind (twoOperands_all hP sz src dst hs hd h) fun ⟨_, _, _⟩ _ _ hPu => hP.setCC _ _ (hg _ _ _) hPu

theorem modifyOne_all (sz : Size) (dst : Operand) (f : Word → Word) {g : Word → CC → CC} {s : State}
    (hg : ∀ d cc, C cc (g d cc)) (hd : ∀ r, touches dst r → W r) (hr : dst.mode = .register → W dst.reg)
    (ha : ∀ d a t, oneOperand sz dst s = .ok (d, .mem a) t → A a sz) (h : P s) :
    (modifyOne sz dst f g s).All Q P :=
  Res.All_bind (oneOperand_all hP sz dst hd h) fun ⟨d, loc⟩ u hu hPu =>
    writeOp_all hP _
      (fun r e => by
        obtain ⟨hm, he⟩ := oneOperand_reg (e ▸ hu)
        exact he ▸ hr hm)
      (fun a e => ha d a u (e ▸ hu)) (hP.setCC _ _ (hg _ _) hPu)

theorem testOne_all (sz : Size) (dst : Operand) {g : Word → CC → CC} {s : State}
    (hg : ∀ d cc, C cc (g d cc)) (hd : ∀ r, touches dst r → W r) (h : P s) : (testOne sz dst g s).All Q P :=
  Res.All_bind (oneOperand_all hP sz dst hd h) fun ⟨_, _⟩ _ _ hPu => hP.setCC _ _ (hg _ _) hPu

theorem clearOne_all (sz : Size) (dst : Operand) (cc : CC) {s : State}
    (hcc : C s.cc cc) (hd : ∀ r, touches dst r → W r) (hr : dst.mode = .register → W dst.reg)
    (ha : ∀ a t, resolve dst sz (s.setCC cc) = .ok (.mem a) t → A a sz) (h : P s) :
    (clearOne sz dst cc s).All Q P :=
  Res.All_bind (resolve_all hP dst sz hd (hP.setCC _ _ hcc h)) fun loc u hu hPu =>
    writeOp_all hP _
      (fun r e => by
        obtain ⟨hm, he⟩ := resolve_reg (e ▸ hu)
        exact he ▸ hr hm)
      (fun a e => ha a u (e ▸ hu)) hPu

theorem move_all (sz : Size) (src dst : Operand) {f : Word → CC → CC} (w : Loc → Word → State → Res Unit) {s : State}
    (hf : ∀ v cc, C cc (f v cc)) (hw : ∀ loc v u, P u → (∀ r, loc = .reg r → W r) → (∀ a, loc = .mem a → A a sz) → (w loc v u).All Q P)
    (hs : ∀ r, touches src r → W r) (hd : ∀ r, touches dst r → W r) (hr : dst.mode = .register → W dst.reg)
    (ha : ∀ v a t, moveOperands sz src dst f s = .ok (v, .mem a) t → A a sz) (h : P s) :
    ((moveOperands sz src dst f s).bind fun p u => w p.2 p.1 u).All Q P :=
  Res.All_bind (moveOperands_all hP sz src dst hf hs hd h) fun ⟨v, loc⟩ u hu hPu =>
    hw loc v u hPu
      (fun r e => by
        subst e
        obtain ⟨hm, he⟩ := moveOperands_reg hu
        exact he ▸ hr hm)
      (fun a e => by
        subst e
        exact ha v a u hu)

theorem setProduct_all {s : State} (r : Reg) (p : Int) (hr : W r) (hr' : ∀ q, pairOf r = some q → W q) (h : P s) :
    P (s.setProduct r p) := by
  unfold State.setProduct
  split
  · rename_i q hq
    exact hP.setX _ _ _ (hr' q hq) (hP.setX _ _ _ hr h)
  · exact hP.setX _ _ _ hr h

end

/-- What an instruction keeps, whatever it is, but for the four that raise a pseudo-trap or write the whole PSW.
ILLEGAL_INSTRUCTION is raised by a stub and by an ill-formed JSR only. -/
theorem exec_all (hP : Closed (fun _ => True) (fun _ _ => True) (fun _ _ => True) Q P) {i : Instr} {s : State}
    (hI : ∀ t, i.isStub = true ∨ i.wellFormed = false → P t → P t.raiseIllegal)
    (hh : i ≠ .halt) (hw : i ≠ .wait) (hi : i ≠ .rti) (ht : i ≠ .rtt) (h : P s) :
    ∃ r : Res Unit, exec i s = r.outcome ∧ r.All Q P := by
  have hpc : ∀ (s : State) (v : Word), P s → P { s with pc := v } := fun s v h => hP.setX s .pc v trivial h
  have hbr : ∀ (b : Bool) (o : BitVec 8), ∃ r : Res Unit, branchIf b o s = r.outcome ∧ r.All Q P := fun b o =>
    ⟨.ok () _, rfl, by cases b <;> exact hpc _ _ h⟩
  have hst : i.isStub = true → ∃ r : Res Unit, stub s = r.outcome ∧ r.All Q P := fun e =>
    ⟨.trapped _, rfl, hI _ (.inl e) h⟩
  have m2 := fun sz src dst f g => modifyTwo_all hP sz src dst f (g := g) (s := s) (fun _ _ _ => trivial)
    (fun _ _ => trivial) (fun _ _ => trivial) (fun _ => trivial) (fun _ _ _ _ _ => trivial) h
  have t2 := fun sz src dst g => testTwo_all hP sz src dst (g := g) (s := s) (fun _ _ _ => trivial)
    (fun _ _ => trivial) (fun _ _ => trivial) h
  have m1 := fun sz dst f g => modifyOne_all hP sz dst f (g := g) (s := s) (fun _ _ => trivial) (fun _ _ => trivial)
    (fun _ => trivial) (fun _ _ _ _ => trivial) h
  have t1 := fun sz dst g => testOne_all hP sz dst (g := g) (s := s) (fun _ _ => trivial) (fun _ _ => trivial) h
  have c1 := fun sz dst cc => clearOne_all hP sz dst cc (s := s) trivial (fun _ _ => trivial) (fun _ => trivial)
    (fun _ _ _ => trivial) h
  cases i with
  | halt => exact absurd rfl hh
  | wait => exact absurd rfl hw
  | rti => exact absurd rfl hi
  | rtt => exact absurd rfl ht
  | mov src dst =>
    exact ⟨_, rfl, move_all hP .word src dst (fun loc v u => writeOp loc .word v u) (fun _ _ => trivial)
      (fun loc v u hu hr ha => writeOp_all hP v hr ha hu) (fun _ _ => trivial) (fun _ _ => trivial)
      (fun _ => trivial) (fun _ _ _ _ => trivial) h⟩
  | movb src dst =>
    exact ⟨_, rfl, move_all hP .byte src dst (fun loc v u => writeMovb loc v u) (fun _ _ => trivial)
      (fun loc v u hu hr ha => writeMovb_all hP v hr ha hu) (fun _ _ => trivial) (fun _ _ => trivial)
      (fun _ => trivial) (fun _ _ _ _ => trivial) h⟩
  | cmp src dst => exact ⟨_, rfl, t2 _ _ _ _⟩
  | cmpb src dst => exact ⟨_, rfl, t2 _ _ _ _⟩
  | bit src dst => exact ⟨_, rfl, t2 _ _ _ _⟩
  | bitb src dst => exact ⟨_, rfl, t2 _ _ _ _⟩
  | bic src dst => exact ⟨_, rfl, m2 _ _ _ _ _⟩
  | bicb src dst => exact ⟨_, rfl, m2 _ _ _ _ _⟩
  | bis src dst => exact ⟨_, rfl, m2 _ _ _ _ _⟩
  | bisb src dst => exact ⟨_, rfl, m2 _ _ _ _ _⟩
  | add src dst => exact ⟨_, rfl, m2 _ _ _ _ _⟩
  | sub src dst => exact ⟨_, rfl, m2 _ _ _ _ _⟩
  | clr dst => exact ⟨_, rfl, c1 _ _ _⟩
  | clrb dst => exact ⟨_, rfl, c1 _ _ _⟩
  | com dst => exact ⟨_, rfl, m1 _ _ _ _⟩
  | comb dst => exact ⟨_, rfl, m1 _ _ _ _⟩
  | inc dst => exact ⟨_, rfl, m1 _ _ _ _⟩
  | incb dst => exact ⟨_, rfl, m1 _ _ _ _⟩
  | dec dst => exact ⟨_, rfl, m1 _ _ _ _⟩
  | decb dst => exact ⟨_, rfl, m1 _ _ _ _⟩
  | tst dst => exact ⟨_, rfl, t1 _ _ _⟩
  | tstb dst => exact ⟨_, rfl, t1 _ _ _⟩
  | br o => exact hbr _ o
  | bne o => exact hbr _ o
  | beq o => exact hbr _ o
  | bge o => exact hbr _ o
  | blt o => exact hbr _ o
  | bgt o => exact hbr _ o
  | ble o => exact hbr _ o
  | bpl o => exact hbr _ o
  | bmi o => exact hbr _ o
  | bhi o => exact hbr _ o
  | blos o => exact hbr _ o
  | bvc o => exact hbr _ o
  | bvs o => exact hbr _ o
  | bcc o => exact hbr _ o
  | bcs o => exact hbr _ o
  | jsr r dst =>
    refine ⟨_, rfl, Res.All_bind (resolve_all hP dst .word (fun _ _ => trivial) h) fun loc u hr hu => ?_⟩
    cases loc with
    | reg q =>
      refine hI u (.inr ?_) hu
      simp [Instr.wellFormed, (resolve_reg hr).1]
    | mem a =>
      exact Res.All_bind (push_all hP _ trivial trivial hu) fun _ w _ hw =>
        hpc _ _ (hP.setX w r w.pc trivial hw)
  | rts r =>
    exact ⟨_, rfl, Res.All_bind (memRead_all hP _ _ h) fun w u _ hu =>
      hP.setX _ _ _ trivial (hP.setX _ .sp _ trivial (hpc u _ hu))⟩
  | ash r src =>
    exact ⟨_, rfl, Res.All_bind (readOperand_all hP src .word (fun _ _ => trivial) h) fun v u _ hu =>
      hP.setX _ _ _ trivial (hP.setCC _ _ trivial hu)⟩
  | mul r src =>
    exact ⟨_, rfl, Res.All_bind (readOperand_all hP src .word (fun _ _ => trivial) h) fun v u _ hu =>
      setProduct_all hP r _ trivial (fun _ _ => trivial) (hP.setCC _ _ trivial hu)⟩
  | ccode set n z v c =>
    refine ⟨.ok () _, rfl, ?_⟩
    show P { s with psw := _ }
    rw [ccode_eq_setCC]
    exact hP.setCC _ _ trivial h
  | neg dst => exact hst rfl
  | negb dst => exact hst rfl
  | adc dst => exact hst rfl
  | adcb dst => exact hst rfl
  | sbc dst => exact hst rfl
  | sbcb dst => exact hst rfl
  | ror dst => exact hst rfl
  | rorb dst => exact hst rfl
  | rol dst => exact hst rfl
  | rolb dst => exact hst rfl
  | asr dst => exact hst rfl
  | asrb dst => exact hst rfl
  | asl dst => exact hst rfl
  | aslb dst => exact hst rfl
  | swab dst => exact hst rfl
  | sxt dst => exact hst rfl
  | mark n => exact hst rfl
  | mfpi dst => exact hst rfl
  | mtpi dst => exact hst rfl
  | mtps dst => exact hst rfl
  | mfpd dst => exact hst rfl
  | mtpd dst => exact hst rfl
  | mfps dst => exact hst rfl
  | jmp dst => exact hst rfl
  | div r src => exact hst rfl
  | ashc r src => exact hst rfl
  | xor r dst => exact hst rfl
  | sob r n => exact hst rfl
  | bpt => exact hst rfl
  | iot => exact hst rfl
  | reset => exact hst rfl
  | spl n => exact hst rfl
  | emt k => exact hst rfl
  | trap k => exact hst rfl

end Sys2Proof.Machine
end

