-- ==== Sys2Proof/Laws/Frame.lean ====
section
/-! SUPPORT. Frames as a property that the updates of an instruction keep: outside the registers `W`, the condition
codes that `K` lets change, and the bytes of one store, nothing changes. -/

namespace Sys2Proof.Machine

/-- A frame: registers outside `W`, condition codes related by `K`, bytes outside one store. -/
def Framed (W : Reg → Prop) (K : CC → CC → Prop) (stored : Option Word) (sz : Size) (s t : State) : Prop :=
  Kept W s t ∧ K s.cc t.cc ∧ BytesKept stored sz s t

variable {W : Reg → Prop} {K : CC → CC → Prop} {stored : Option Word} {sz : Size}

theorem Kept.refl (s : State) : Kept W s s :=
  ⟨fun _ _ => rfl, ⟨rfl, rfl, rfl, rfl, rfl, rfl⟩, .inl rfl, List.prefix_rfl, rfl, fun _ => rfl⟩

theorem Framed.refl (hK : ∀ cc, K cc cc) (s : State) : Framed W K stored sz s s :=
  ⟨Kept.refl s, hK _, fun _ _ => rfl⟩

theorem Kept.setX {s t : State} (h : Kept W s t) {r : Reg} (hr : W r) (v : Word) : Kept W s (t.setX r v) := by
  obtain ⟨h1, ⟨h2, h3, h4, h5, h6, h7⟩, h8, h9, h10, h11⟩ := h
  refine ⟨fun q hq => ?_, ⟨by simpa, by simpa, by simpa, by simpa, by simpa, by simpa⟩, ?_, by simpa, by simpa,
    fun ht => by simpa using h11 ht⟩
  · rw [State.setX_x_other t fun e : q = r => hq (e ▸ hr)]
    exact h1 q hq
  · simpa only [TrapKept, State.setX_trap] using h8

theorem Kept.setCC {s t : State} (h : Kept W s t) (cc : CC) : Kept W s (t.setCC cc) := by
  obtain ⟨h1, ⟨h2, h3, h4, h5, h6, h7⟩, h8, h9, h10, h11⟩ := h
  exact ⟨fun q hq => by simpa using h1 q hq, ⟨by rw [setCC_high]; exact h2, h3, h4, h5, h6, h7⟩, h8, h9, h10, h11⟩

theorem Kept.raise {s t : State} (h : Kept W s t) (k : FaultKind) (a : Option Word) :
    Kept W s (t.raise (.fault k) a) := by
  obtain ⟨h1, ⟨h2, h3, h4, h5, h6, h7⟩, h8, h9, h10, h11⟩ := h
  refine ⟨fun q hq => by simpa using h1 q hq, ⟨h2, h3, h4, h5, h6, h7⟩, .inr ⟨k, a, ?_⟩, h9, h10, h11⟩
  simp only [State.raise, h7]

theorem Kept.logCall {s t : State} (h : Kept W s t) (c : DeviceCall) : Kept W s (t.logCall c) := by
  obtain ⟨h1, ⟨h2, h3, h4, h5, h6, h7⟩, h8, h9, h10, h11⟩ := h
  exact ⟨fun q hq => by simpa using h1 q hq, ⟨h2, h3, h4, h5, h6, h7⟩, h8,
    h9.trans (List.prefix_append _ _), h10, h11⟩

theorem Kept.noteStore {s t : State} (h : Kept W s t) (a : Word) : Kept W s (t.noteStore a) := by
  obtain ⟨h1, ⟨h2, h3, h4, h5, h6, h7⟩, h8, h9, h10, h11⟩ := h
  refine ⟨fun q hq => by simpa using h1 q hq, ⟨by simpa, by simpa, by simpa, by simpa, by simpa, by simpa⟩, ?_,
    by simpa, ?_, fun ht => ?_⟩
  · simpa only [TrapKept, State.noteStore_trap] using h8
  · unfold State.noteStore
    split <;> exact h10
  · unfold State.noteStore
    rw [if_neg fun e => by simp [h5, ht] at e]
    exact h11 ht

theorem Kept.core {s t : State} (h : Kept W s t) (m : Memory) : Kept W s { t with core := m } := h

theorem coreWrite_read_other (t : State) (a : Word) (z : Size) (v : Word) (x : Nat)
    (hx : x < a.toNat ∨ a.toNat + z.bytes ≤ x) : (t.coreWrite a z v).core.read x = t.core.read x := by
  cases z with
  | byte =>
    simp only [Size.bytes] at hx
    exact Memory.read_write_other _ _ (by omega)
  | word =>
    simp only [Size.bytes] at hx
    exact (Memory.read_write_other _ _ (by omega)).trans (Memory.read_write_other _ _ (by omega))

/-- The updates of an instruction keep a frame that admits their registers, condition codes and store. -/
theorem framed_closed (s : State) (hK : ∀ a b c, K a b → K b c → K a c) :
    Closed W (fun a z => stored = some a ∧ z = sz) K True (Framed W K stored sz s) where
  setX t r v hr h := ⟨h.1.setX hr v, by simpa only [State.cc, State.setX_psw] using h.2.1, fun x hx => by
    simpa only [State.setX_core] using h.2.2 x hx⟩
  setCC t cc hc h := ⟨h.1.setCC cc, by rw [State.setCC_cc]; exact hK _ _ _ h.2.1 hc, h.2.2⟩
  raiseOdd t a _ h := ⟨h.1.raise _ _, h.2⟩
  raiseNone t a _ _ h := ⟨h.1.raise _ _, h.2⟩
  raiseDevice t k a b _ _ h := ⟨h.1.raise _ _, h.2⟩
  logCall t b op a z _ _ h := ⟨h.1.logCall _, h.2⟩
  coreWrite t a z v ha _ _ h := by
    obtain ⟨rfl, rfl⟩ := ha
    refine ⟨?_, ?_, fun x hx => ?_⟩
    · cases z <;> exact h.1.core _
    · simpa only [State.cc, State.coreWrite_psw] using h.2.1
    · rw [coreWrite_read_other _ _ _ _ _ (hx _ rfl)]
      exact h.2.2 x hx
  noteStore t a h := ⟨h.1.noteStore a, by simpa only [State.cc, State.noteStore_psw] using h.2.1, fun x hx => by
    simpa only [State.noteStore_core] using h.2.2 x hx⟩
  stuck _ _ _ _ _ _ := trivial

/-! ## What a trap in an operand leaves -/

theorem OperandTrapLeaves.refl (W : Reg → Prop) (s : State) : OperandTrapLeaves W s s :=
  ⟨rfl, rfl, rfl, rfl, fun _ _ => rfl⟩

/-- Every update but a write of the condition codes or of memory leaves what `OperandTrapLeaves` names. -/
theorem leaves_closed (W : Reg → Prop) (s : State) :
    Closed W (fun _ _ => False) (fun _ _ => False) True (OperandTrapLeaves W s) where
  setX t r v hr h := by
    obtain ⟨h1, h2, h3, h4, h5⟩ := h
    refine ⟨by simpa, by simpa, by simpa, by simpa, fun q hq => ?_⟩
    rw [State.setX_x_other t fun e : q = r => hq (e ▸ hr)]
    exact h5 q hq
  setCC _ _ h := h.elim
  raiseOdd t a _ h := ⟨h.1, h.2.1, h.2.2.1, h.2.2.2.1, fun q hq => by simpa using h.2.2.2.2 q hq⟩
  raiseNone t a _ _ h := ⟨h.1, h.2.1, h.2.2.1, h.2.2.2.1, fun q hq => by simpa using h.2.2.2.2 q hq⟩
  raiseDevice t k a b _ _ h := ⟨h.1, h.2.1, h.2.2.1, h.2.2.2.1, fun q hq => by simpa using h.2.2.2.2 q hq⟩
  logCall t b op a z _ _ h := ⟨h.1, h.2.1, h.2.2.1, h.2.2.2.1, fun q hq => by simpa using h.2.2.2.2 q hq⟩
  coreWrite t a z v ha := ha.elim
  noteStore t a h :=
    ⟨by simpa using h.1, by simpa using h.2.1, by simpa using h.2.2.1, by simpa using h.2.2.2.1,
      fun q hq => by simpa using h.2.2.2.2 q hq⟩
  stuck _ _ _ _ _ _ := trivial

/-- All that resolving an operand changes of the PSW, memory and the registers. -/
theorem resolve_leaves {W : Reg → Prop} {o : Operand} (sz : Size) {s t : State} (hW : ∀ r, touches o r → W r)
    (h : OperandTrapLeaves W s t) : (resolve o sz t).All True (OperandTrapLeaves W s) :=
  resolve_all (leaves_closed W s) o sz hW h

/-- All that reading an operand after its resolution changes of them. -/
theorem readOp_leaves {W : Reg → Prop} {s t : State} (loc : Loc) (sz : Size) (h : OperandTrapLeaves W s t) :
    (readOp loc sz t).All True (OperandTrapLeaves W s) :=
  readOp_all (leaves_closed W s) loc sz h

/-- All that a trap in an operand's resolution or read leaves. -/
theorem OperandTraps.leaves {W : Reg → Prop} {sz : Size} {o : Operand} {s t u : State} (h : OperandTraps sz o t u)
    (hW : ∀ r, touches o r → W r) (ht : OperandTrapLeaves W s t) : OperandTrapLeaves W s u := by
  have hr := resolve_leaves sz hW ht
  rcases h with h | ⟨loc, v, h1, h2⟩
  · exact Res.All_of_trapped hr h
  · exact Res.All_of_trapped (readOp_leaves loc sz (Res.All_of_ok hr h1)) h2

end Sys2Proof.Machine
end

