-- ==== Sys2Proof/Laws/Operands.lean ====
section
/-! SUPPORT. The operand phases of the claims are the model's operand sequences, and the value computations on words
and on the values of bytes. -/

namespace Sys2Proof.Machine

/-- An operation that ends in a state answers that state. -/
theorem Res.outcome_of_endsIn {r : Res Unit} {t : State} (h : r.endsIn t) : r.outcome = .next t := by
  rcases h with rfl | rfl <;> rfl

/-- The claims' operand phase is `twoOperands`. -/
theorem twoOperands_of_gets {sz : Size} {src dst : Operand} {s t : State} {v d : Word} {loc : Loc}
    (h : GetsOperands sz src dst s v d loc t) : twoOperands sz src dst s = .ok (v, d, loc) t := by
  unfold GetsOperands at h
  unfold twoOperands readOperand oneOperand
  split at h <;> obtain ⟨sl, s1, s2, s3, h1, h2, h3, h4⟩ := h <;> rename_i ho <;>
    simp only [ho, h1, h2, h3, h4, Res.bind_ok]

/-- The claims' one-operand phase is `oneOperand`. -/
theorem oneOperand_of_gets {sz : Size} {dst : Operand} {s t : State} {d : Word} {loc : Loc}
    (h : GetsOperand sz dst s d loc t) : oneOperand sz dst s = .ok (d, loc) t := by
  obtain ⟨s1, h1, h2⟩ := h
  simp only [oneOperand, h1, h2, Res.bind_ok]

/-- The claims' one-operand phase, when only the value is wanted. -/
theorem readOperand_of_gets {sz : Size} {src : Operand} {s t : State} {v : Word} {loc : Loc}
    (h : GetsOperand sz src s v loc t) : readOperand src sz s = .ok v t := by
  obtain ⟨s1, h1, h2⟩ := h
  simp only [readOperand, h1, h2, Res.bind_ok]

/-- A trap of the claims' operand phases is the outcome of the model's operand sequences. -/
theorem readOperand_of_traps {sz : Size} {o : Operand} {s u : State} (h : OperandTraps sz o s u) :
    readOperand o sz s = .trapped u := by
  rcases h with h | ⟨loc, t, h1, h2⟩
  · simp only [readOperand, h, Res.bind_trapped]
  · simp only [readOperand, h1, h2, Res.bind_ok]

theorem oneOperand_of_traps {sz : Size} {o : Operand} {s u : State} (h : OperandTraps sz o s u) :
    oneOperand sz o s = .trapped u := by
  rcases h with h | ⟨loc, t, h1, h2⟩
  · simp only [oneOperand, h, Res.bind_trapped]
  · simp only [oneOperand, h1, h2, Res.bind_ok, Res.bind_trapped]

theorem twoOperands_of_traps {sz : Size} {src dst : Operand} {s u : State} (h : TwoOperandsTrap sz src dst s u) :
    twoOperands sz src dst s = .trapped u := by
  unfold TwoOperandsTrap at h
  unfold twoOperands
  cases ho : s.params.operandOrder <;> simp only [ho] at h ⊢
  · rcases h with h | ⟨sl, s1, v, s2, h1, h2, h3⟩
    · simp only [readOperand_of_traps h, Res.bind_trapped]
    · simp only [readOperand, h1, h2, Res.bind_ok, oneOperand_of_traps h3, Res.bind_trapped]
  · rcases h with h | ⟨sl, s1, h1, h | ⟨dl, s2, h2, h | ⟨v, s3, h3, h⟩⟩⟩
    · simp only [h, Res.bind_trapped]
    · simp only [h1, h, Res.bind_ok, Res.bind_trapped]
    · simp only [h1, h2, h, Res.bind_ok, Res.bind_trapped]
    · simp only [h1, h2, h3, h, Res.bind_ok, Res.bind_trapped]

theorem moveOperands_of_traps {sz : Size} {src dst : Operand} {s u : State} (h : MoveTraps sz src dst s u) :
    moveOperands sz src dst (logicFlags sz) s = .trapped u := by
  unfold MoveTraps at h
  unfold moveOperands
  cases ho : s.params.operandOrder <;> simp only [ho] at h ⊢
  · rcases h with h | ⟨sl, s1, v, s2, h1, h2, h3⟩
    · simp only [readOperand_of_traps h, Res.bind_trapped]
    · simp only [readOperand, h1, h2, Res.bind_ok, h3, Res.bind_trapped]
  · rcases h with h | ⟨sl, s1, h1, h | ⟨dl, s2, h2, h⟩⟩
    · simp only [h, Res.bind_trapped]
    · simp only [h1, h, Res.bind_ok, Res.bind_trapped]
    · simp only [h1, h2, h, Res.bind_ok, Res.bind_trapped]

/-! ## Words -/

@[simp] theorem and_maskOf_word (v : Word) : v &&& maskOf .word = v := by
  apply BitVec.eq_of_getLsbD_eq
  intro i hi
  have : ∀ j : Fin 16, (maskOf .word).getLsbD j = true := by decide
  rw [BitVec.getLsbD_and, this ⟨i, hi⟩, Bool.and_true]

theorem isZero_word (v : Word) : isZero .word v = decide (v = 0) := by simp only [isZero, and_maskOf_word]

theorem signOf_word (v : Word) : signOf .word v = v.getLsbD 15 := rfl

/-! ## The values of bytes -/

theorem ofByte_toNat (b : Byte) : (ofByte b).toNat = b.toNat := by
  simp only [ofByte, BitVec.toNat_setWidth]
  omega

@[simp] theorem lowByte_ofByte (b : Byte) : lowByte (ofByte b) = b := by
  apply BitVec.eq_of_toNat_eq
  simp only [lowByte, BitVec.toNat_setWidth, ofByte_toNat]
  omega

theorem ofByte_inj {a b : Byte} (h : ofByte a = ofByte b) : a = b := by
  rw [← lowByte_ofByte a, h, lowByte_ofByte]

/-- Reducing a word to a byte operand keeps its low byte. -/
theorem and_maskOf_byte (v : Word) : v &&& maskOf .byte = ofByte (lowByte v) := by
  apply BitVec.eq_of_toNat_eq
  rw [ofByte_toNat, BitVec.toNat_and]
  simp only [lowByte, BitVec.toNat_setWidth, maskOf]
  exact Nat.and_two_pow_sub_one_eq_mod _ 8

theorem ofByte_eq_zero {b : Byte} : ofByte b = 0 ↔ b = 0 :=
  ⟨fun h => ofByte_inj (h.trans rfl), fun h => h ▸ rfl⟩

theorem isZero_ofByte (b : Byte) : isZero .byte (ofByte b) = decide (b = 0) := by
  simp only [isZero, and_maskOf_byte, lowByte_ofByte, ofByte_eq_zero]

theorem signOf_ofByte (b : Byte) : signOf .byte (ofByte b) = b.getLsbD 7 := by
  simp [signOf, Size.bits, ofByte]

theorem lowByte_and (v w : Word) : lowByte (v &&& w) = lowByte v &&& lowByte w := BitVec.setWidth_and

theorem lowByte_or (v w : Word) : lowByte (v ||| w) = lowByte v ||| lowByte w := BitVec.setWidth_or

theorem lowByte_not (v : Word) : lowByte (~~~v) = ~~~lowByte v := by
  simp [lowByte, BitVec.setWidth_not]

theorem lowByte_add (v w : Word) : lowByte (v + w) = lowByte v + lowByte w := by
  simp [lowByte, BitVec.setWidth_add]

theorem lowByte_sub (v w : Word) : lowByte (v - w) = lowByte v - lowByte w := by
  apply BitVec.eq_of_toNat_eq
  simp only [lowByte, BitVec.toNat_setWidth, BitVec.toNat_sub]
  omega

theorem bitResult_word (v d : Word) : bitResult .word v d = v &&& d := by simp [bitResult]
theorem bicResult_word (v d : Word) : bicResult .word v d = ~~~v &&& d := by simp [bicResult]
theorem bisResult_word (v d : Word) : bisResult .word v d = v ||| d := by simp [bisResult]
theorem diff_word (v d : Word) : diff .word v d = v - d := by simp [diff]
theorem comResult_word (d : Word) : comResult .word d = ~~~d := by simp [comResult]
theorem incResult_word (d : Word) : incResult .word d = d + 1 := by simp [incResult]
theorem decResult_word (d : Word) : decResult .word d = d - 1 := by simp [decResult]

theorem bitResult_byte (v d : Byte) : bitResult .byte (ofByte v) (ofByte d) = ofByte (v &&& d) := by
  simp only [bitResult, and_maskOf_byte, lowByte_and, lowByte_ofByte]

theorem bicResult_byte (v d : Byte) : bicResult .byte (ofByte v) (ofByte d) = ofByte (~~~v &&& d) := by
  simp only [bicResult, and_maskOf_byte, lowByte_and, lowByte_not, lowByte_ofByte]

theorem bisResult_byte (v d : Byte) : bisResult .byte (ofByte v) (ofByte d) = ofByte (v ||| d) := by
  simp only [bisResult, and_maskOf_byte, lowByte_or, lowByte_ofByte]

theorem diff_byte (v d : Byte) : diff .byte (ofByte v) (ofByte d) = ofByte (v - d) := by
  simp only [diff, and_maskOf_byte, lowByte_sub, lowByte_ofByte]

theorem comResult_byte (d : Byte) : comResult .byte (ofByte d) = ofByte (~~~d) := by
  simp only [comResult, and_maskOf_byte, lowByte_not, lowByte_ofByte]

theorem incResult_byte (d : Byte) : incResult .byte (ofByte d) = ofByte (d + 1) := by
  simp only [incResult, and_maskOf_byte, lowByte_add, lowByte_ofByte]
  rfl

theorem decResult_byte (d : Byte) : decResult .byte (ofByte d) = ofByte (d - 1) := by
  simp only [decResult, and_maskOf_byte, lowByte_sub, lowByte_ofByte]
  rfl

end Sys2Proof.Machine
end

