-- ==== Sys2Proof/Laws/PerInstr.lean ====
section
/-! SUPPORT. Facts about every instruction as syntax, one lemma per constructor. -/

namespace Sys2Proof.Laws

/-- The fields an instruction encodes fit the bits its row of the opcode map leaves free, and those bits are 0 in the
row's `match` (30_encoding.md R79 to R86, R96): no field reaches a fixed bit. -/
def EncodedFields.Statement (i : Instr) : Prop :=
  i.operandBits < i.operandSpan ∧ i.opcode % i.operandSpan = 0 ∧ i.opcode + i.operandSpan ≤ 0x10000

end Sys2Proof.Laws

namespace Sys2Proof

theorem Mode.bits_lt (m : Mode) : m.bits < 8 := by cases m <;> decide

theorem Reg.bits_lt (r : Reg) : r.bits < 8 := by cases r <;> decide

theorem Operand.bits_lt (o : Operand) : o.bits < 64 := by
  have := o.mode.bits_lt
  have := o.reg.bits_lt
  simp only [Operand.bits]
  omega

end Sys2Proof

namespace Sys2Proof.Laws.EncodedFields

/-- Format DOUBLE. -/
theorem double_fits (s d : Operand) : s.bits * 64 + d.bits < 0o10000 := by
  have := s.bits_lt
  have := d.bits_lt
  omega

/-- Format RMR. -/
theorem rmr_fits (r : Reg) (d : Operand) : r.bits * 64 + d.bits < 0o1000 := by
  have := r.bits_lt
  have := d.bits_lt
  omega

/-- Format SOB. -/
theorem sob_fits (r : Reg) (n : BitVec 6) : r.bits * 64 + n.toNat < 0o1000 := by
  have := r.bits_lt
  have := n.isLt
  omega

/-- Format CC. -/
theorem cc_fits (s n z v c : Bool) :
    s.toNat * 16 + n.toNat * 8 + z.toNat * 4 + v.toNat * 2 + c.toNat < 0o40 := by
  cases s <;> cases n <;> cases z <;> cases v <;> cases c <;> decide

theorem mov (src dst : Operand) : Statement (.mov src dst) := by
  show src.bits * 64 + dst.bits < 0o10000 ∧ 0o010000 % 0o10000 = 0 ∧ 0o010000 + 0o10000 ≤ 0x10000
  exact ⟨double_fits src dst, by decide, by decide⟩

theorem movb (src dst : Operand) : Statement (.movb src dst) := by
  show src.bits * 64 + dst.bits < 0o10000 ∧ 0o110000 % 0o10000 = 0 ∧ 0o110000 + 0o10000 ≤ 0x10000
  exact ⟨double_fits src dst, by decide, by decide⟩

theorem cmp (src dst : Operand) : Statement (.cmp src dst) := by
  show src.bits * 64 + dst.bits < 0o10000 ∧ 0o020000 % 0o10000 = 0 ∧ 0o020000 + 0o10000 ≤ 0x10000
  exact ⟨double_fits src dst, by decide, by decide⟩

theorem cmpb (src dst : Operand) : Statement (.cmpb src dst) := by
  show src.bits * 64 + dst.bits < 0o10000 ∧ 0o120000 % 0o10000 = 0 ∧ 0o120000 + 0o10000 ≤ 0x10000
  exact ⟨double_fits src dst, by decide, by decide⟩

theorem bit (src dst : Operand) : Statement (.bit src dst) := by
  show src.bits * 64 + dst.bits < 0o10000 ∧ 0o030000 % 0o10000 = 0 ∧ 0o030000 + 0o10000 ≤ 0x10000
  exact ⟨double_fits src dst, by decide, by decide⟩

theorem bitb (src dst : Operand) : Statement (.bitb src dst) := by
  show src.bits * 64 + dst.bits < 0o10000 ∧ 0o130000 % 0o10000 = 0 ∧ 0o130000 + 0o10000 ≤ 0x10000
  exact ⟨double_fits src dst, by decide, by decide⟩

theorem bic (src dst : Operand) : Statement (.bic src dst) := by
  show src.bits * 64 + dst.bits < 0o10000 ∧ 0o040000 % 0o10000 = 0 ∧ 0o040000 + 0o10000 ≤ 0x10000
  exact ⟨double_fits src dst, by decide, by decide⟩

theorem bicb (src dst : Operand) : Statement (.bicb src dst) := by
  show src.bits * 64 + dst.bits < 0o10000 ∧ 0o140000 % 0o10000 = 0 ∧ 0o140000 + 0o10000 ≤ 0x10000
  exact ⟨double_fits src dst, by decide, by decide⟩

theorem bis (src dst : Operand) : Statement (.bis src dst) := by
  show src.bits * 64 + dst.bits < 0o10000 ∧ 0o050000 % 0o10000 = 0 ∧ 0o050000 + 0o10000 ≤ 0x10000
  exact ⟨double_fits src dst, by decide, by decide⟩

theorem bisb (src dst : Operand) : Statement (.bisb src dst) := by
  show src.bits * 64 + dst.bits < 0o10000 ∧ 0o150000 % 0o10000 = 0 ∧ 0o150000 + 0o10000 ≤ 0x10000
  exact ⟨double_fits src dst, by decide, by decide⟩

theorem add (src dst : Operand) : Statement (.add src dst) := by
  show src.bits * 64 + dst.bits < 0o10000 ∧ 0o060000 % 0o10000 = 0 ∧ 0o060000 + 0o10000 ≤ 0x10000
  exact ⟨double_fits src dst, by decide, by decide⟩

theorem sub (src dst : Operand) : Statement (.sub src dst) := by
  show src.bits * 64 + dst.bits < 0o10000 ∧ 0o160000 % 0o10000 = 0 ∧ 0o160000 + 0o10000 ≤ 0x10000
  exact ⟨double_fits src dst, by decide, by decide⟩

theorem clr (dst : Operand) : Statement (.clr dst) := by
  show dst.bits < 0o100 ∧ 0o005000 % 0o100 = 0 ∧ 0o005000 + 0o100 ≤ 0x10000
  exact ⟨dst.bits_lt, by decide, by decide⟩

theorem clrb (dst : Operand) : Statement (.clrb dst) := by
  show dst.bits < 0o100 ∧ 0o105000 % 0o100 = 0 ∧ 0o105000 + 0o100 ≤ 0x10000
  exact ⟨dst.bits_lt, by decide, by decide⟩

theorem com (dst : Operand) : Statement (.com dst) := by
  show dst.bits < 0o100 ∧ 0o005100 % 0o100 = 0 ∧ 0o005100 + 0o100 ≤ 0x10000
  exact ⟨dst.bits_lt, by decide, by decide⟩

theorem comb (dst : Operand) : Statement (.comb dst) := by
  show dst.bits < 0o100 ∧ 0o105100 % 0o100 = 0 ∧ 0o105100 + 0o100 ≤ 0x10000
  exact ⟨dst.bits_lt, by decide, by decide⟩

theorem inc (dst : Operand) : Statement (.inc dst) := by
  show dst.bits < 0o100 ∧ 0o005200 % 0o100 = 0 ∧ 0o005200 + 0o100 ≤ 0x10000
  exact ⟨dst.bits_lt, by decide, by decide⟩

theorem incb (dst : Operand) : Statement (.incb dst) := by
  show dst.bits < 0o100 ∧ 0o105200 % 0o100 = 0 ∧ 0o105200 + 0o100 ≤ 0x10000
  exact ⟨dst.bits_lt, by decide, by decide⟩

theorem dec (dst : Operand) : Statement (.dec dst) := by
  show dst.bits < 0o100 ∧ 0o005300 % 0o100 = 0 ∧ 0o005300 + 0o100 ≤ 0x10000
  exact ⟨dst.bits_lt, by decide, by decide⟩

theorem decb (dst : Operand) : Statement (.decb dst) := by
  show dst.bits < 0o100 ∧ 0o105300 % 0o100 = 0 ∧ 0o105300 + 0o100 ≤ 0x10000
  exact ⟨dst.bits_lt, by decide, by decide⟩

theorem tst (dst : Operand) : Statement (.tst dst) := by
  show dst.bits < 0o100 ∧ 0o005700 % 0o100 = 0 ∧ 0o005700 + 0o100 ≤ 0x10000
  exact ⟨dst.bits_lt, by decide, by decide⟩

theorem tstb (dst : Operand) : Statement (.tstb dst) := by
  show dst.bits < 0o100 ∧ 0o105700 % 0o100 = 0 ∧ 0o105700 + 0o100 ≤ 0x10000
  exact ⟨dst.bits_lt, by decide, by decide⟩

theorem neg (dst : Operand) : Statement (.neg dst) := by
  show dst.bits < 0o100 ∧ 0o005400 % 0o100 = 0 ∧ 0o005400 + 0o100 ≤ 0x10000
  exact ⟨dst.bits_lt, by decide, by decide⟩

theorem negb (dst : Operand) : Statement (.negb dst) := by
  show dst.bits < 0o100 ∧ 0o105400 % 0o100 = 0 ∧ 0o105400 + 0o100 ≤ 0x10000
  exact ⟨dst.bits_lt, by decide, by decide⟩

theorem adc (dst : Operand) : Statement (.adc dst) := by
  show dst.bits < 0o100 ∧ 0o005500 % 0o100 = 0 ∧ 0o005500 + 0o100 ≤ 0x10000
  exact ⟨dst.bits_lt, by decide, by decide⟩

theorem adcb (dst : Operand) : Statement (.adcb dst) := by
  show dst.bits < 0o100 ∧ 0o105500 % 0o100 = 0 ∧ 0o105500 + 0o100 ≤ 0x10000
  exact ⟨dst.bits_lt, by decide, by decide⟩

theorem sbc (dst : Operand) : Statement (.sbc dst) := by
  show dst.bits < 0o100 ∧ 0o005600 % 0o100 = 0 ∧ 0o005600 + 0o100 ≤ 0x10000
  exact ⟨dst.bits_lt, by decide, by decide⟩

theorem sbcb (dst : Operand) : Statement (.sbcb dst) := by
  show dst.bits < 0o100 ∧ 0o105600 % 0o100 = 0 ∧ 0o105600 + 0o100 ≤ 0x10000
  exact ⟨dst.bits_lt, by decide, by decide⟩

theorem ror (dst : Operand) : Statement (.ror dst) := by
  show dst.bits < 0o100 ∧ 0o006000 % 0o100 = 0 ∧ 0o006000 + 0o100 ≤ 0x10000
  exact ⟨dst.bits_lt, by decide, by decide⟩

theorem rorb (dst : Operand) : Statement (.rorb dst) := by
  show dst.bits < 0o100 ∧ 0o106000 % 0o100 = 0 ∧ 0o106000 + 0o100 ≤ 0x10000
  exact ⟨dst.bits_lt, by decide, by decide⟩

theorem rol (dst : Operand) : Statement (.rol dst) := by
  show dst.bits < 0o100 ∧ 0o006100 % 0o100 = 0 ∧ 0o006100 + 0o100 ≤ 0x10000
  exact ⟨dst.bits_lt, by decide, by decide⟩

theorem rolb (dst : Operand) : Statement (.rolb dst) := by
  show dst.bits < 0o100 ∧ 0o106100 % 0o100 = 0 ∧ 0o106100 + 0o100 ≤ 0x10000
  exact ⟨dst.bits_lt, by decide, by decide⟩

theorem asr (dst : Operand) : Statement (.asr dst) := by
  show dst.bits < 0o100 ∧ 0o006200 % 0o100 = 0 ∧ 0o006200 + 0o100 ≤ 0x10000
  exact ⟨dst.bits_lt, by decide, by decide⟩

theorem asrb (dst : Operand) : Statement (.asrb dst) := by
  show dst.bits < 0o100 ∧ 0o106200 % 0o100 = 0 ∧ 0o106200 + 0o100 ≤ 0x10000
  exact ⟨dst.bits_lt, by decide, by decide⟩

theorem asl (dst : Operand) : Statement (.asl dst) := by
  show dst.bits < 0o100 ∧ 0o006300 % 0o100 = 0 ∧ 0o006300 + 0o100 ≤ 0x10000
  exact ⟨dst.bits_lt, by decide, by decide⟩

theorem aslb (dst : Operand) : Statement (.aslb dst) := by
  show dst.bits < 0o100 ∧ 0o106300 % 0o100 = 0 ∧ 0o106300 + 0o100 ≤ 0x10000
  exact ⟨dst.bits_lt, by decide, by decide⟩

theorem swab (dst : Operand) : Statement (.swab dst) := by
  show dst.bits < 0o100 ∧ 0o000300 % 0o100 = 0 ∧ 0o000300 + 0o100 ≤ 0x10000
  exact ⟨dst.bits_lt, by decide, by decide⟩

theorem sxt (dst : Operand) : Statement (.sxt dst) := by
  show dst.bits < 0o100 ∧ 0o006700 % 0o100 = 0 ∧ 0o006700 + 0o100 ≤ 0x10000
  exact ⟨dst.bits_lt, by decide, by decide⟩

theorem mark (count : BitVec 6) : Statement (.mark count) := by
  show count.toNat < 0o100 ∧ 0o006400 % 0o100 = 0 ∧ 0o006400 + 0o100 ≤ 0x10000
  exact ⟨count.isLt, by decide, by decide⟩

theorem mfpi (dst : Operand) : Statement (.mfpi dst) := by
  show dst.bits < 0o100 ∧ 0o006500 % 0o100 = 0 ∧ 0o006500 + 0o100 ≤ 0x10000
  exact ⟨dst.bits_lt, by decide, by decide⟩

theorem mtpi (dst : Operand) : Statement (.mtpi dst) := by
  show dst.bits < 0o100 ∧ 0o006600 % 0o100 = 0 ∧ 0o006600 + 0o100 ≤ 0x10000
  exact ⟨dst.bits_lt, by decide, by decide⟩

theorem mtps (dst : Operand) : Statement (.mtps dst) := by
  show dst.bits < 0o100 ∧ 0o106400 % 0o100 = 0 ∧ 0o106400 + 0o100 ≤ 0x10000
  exact ⟨dst.bits_lt, by decide, by decide⟩

theorem mfpd (dst : Operand) : Statement (.mfpd dst) := by
  show dst.bits < 0o100 ∧ 0o106500 % 0o100 = 0 ∧ 0o106500 + 0o100 ≤ 0x10000
  exact ⟨dst.bits_lt, by decide, by decide⟩

theorem mtpd (dst : Operand) : Statement (.mtpd dst) := by
  show dst.bits < 0o100 ∧ 0o106600 % 0o100 = 0 ∧ 0o106600 + 0o100 ≤ 0x10000
  exact ⟨dst.bits_lt, by decide, by decide⟩

theorem mfps (dst : Operand) : Statement (.mfps dst) := by
  show dst.bits < 0o100 ∧ 0o106700 % 0o100 = 0 ∧ 0o106700 + 0o100 ≤ 0x10000
  exact ⟨dst.bits_lt, by decide, by decide⟩

theorem br (off : BitVec 8) : Statement (.br off) := by
  show off.toNat < 0o400 ∧ 0o000400 % 0o400 = 0 ∧ 0o000400 + 0o400 ≤ 0x10000
  exact ⟨off.isLt, by decide, by decide⟩

theorem bne (off : BitVec 8) : Statement (.bne off) := by
  show off.toNat < 0o400 ∧ 0o001000 % 0o400 = 0 ∧ 0o001000 + 0o400 ≤ 0x10000
  exact ⟨off.isLt, by decide, by decide⟩

theorem beq (off : BitVec 8) : Statement (.beq off) := by
  show off.toNat < 0o400 ∧ 0o001400 % 0o400 = 0 ∧ 0o001400 + 0o400 ≤ 0x10000
  exact ⟨off.isLt, by decide, by decide⟩

theorem bge (off : BitVec 8) : Statement (.bge off) := by
  show off.toNat < 0o400 ∧ 0o002000 % 0o400 = 0 ∧ 0o002000 + 0o400 ≤ 0x10000
  exact ⟨off.isLt, by decide, by decide⟩

theorem blt (off : BitVec 8) : Statement (.blt off) := by
  show off.toNat < 0o400 ∧ 0o002400 % 0o400 = 0 ∧ 0o002400 + 0o400 ≤ 0x10000
  exact ⟨off.isLt, by decide, by decide⟩

theorem bgt (off : BitVec 8) : Statement (.bgt off) := by
  show off.toNat < 0o400 ∧ 0o003000 % 0o400 = 0 ∧ 0o003000 + 0o400 ≤ 0x10000
  exact ⟨off.isLt, by decide, by decide⟩

theorem ble (off : BitVec 8) : Statement (.ble off) := by
  show off.toNat < 0o400 ∧ 0o003400 % 0o400 = 0 ∧ 0o003400 + 0o400 ≤ 0x10000
  exact ⟨off.isLt, by decide, by decide⟩

theorem bpl (off : BitVec 8) : Statement (.bpl off) := by
  show off.toNat < 0o400 ∧ 0o100000 % 0o400 = 0 ∧ 0o100000 + 0o400 ≤ 0x10000
  exact ⟨off.isLt, by decide, by decide⟩

theorem bmi (off : BitVec 8) : Statement (.bmi off) := by
  show off.toNat < 0o400 ∧ 0o100400 % 0o400 = 0 ∧ 0o100400 + 0o400 ≤ 0x10000
  exact ⟨off.isLt, by decide, by decide⟩

theorem bhi (off : BitVec 8) : Statement (.bhi off) := by
  show off.toNat < 0o400 ∧ 0o101000 % 0o400 = 0 ∧ 0o101000 + 0o400 ≤ 0x10000
  exact ⟨off.isLt, by decide, by decide⟩

theorem blos (off : BitVec 8) : Statement (.blos off) := by
  show off.toNat < 0o400 ∧ 0o101400 % 0o400 = 0 ∧ 0o101400 + 0o400 ≤ 0x10000
  exact ⟨off.isLt, by decide, by decide⟩

theorem bvc (off : BitVec 8) : Statement (.bvc off) := by
  show off.toNat < 0o400 ∧ 0o102000 % 0o400 = 0 ∧ 0o102000 + 0o400 ≤ 0x10000
  exact ⟨off.isLt, by decide, by decide⟩

theorem bvs (off : BitVec 8) : Statement (.bvs off) := by
  show off.toNat < 0o400 ∧ 0o102400 % 0o400 = 0 ∧ 0o102400 + 0o400 ≤ 0x10000
  exact ⟨off.isLt, by decide, by decide⟩

theorem bcc (off : BitVec 8) : Statement (.bcc off) := by
  show off.toNat < 0o400 ∧ 0o103000 % 0o400 = 0 ∧ 0o103000 + 0o400 ≤ 0x10000
  exact ⟨off.isLt, by decide, by decide⟩

theorem bcs (off : BitVec 8) : Statement (.bcs off) := by
  show off.toNat < 0o400 ∧ 0o103400 % 0o400 = 0 ∧ 0o103400 + 0o400 ≤ 0x10000
  exact ⟨off.isLt, by decide, by decide⟩

theorem jsr (r : Reg) (dst : Operand) : Statement (.jsr r dst) := by
  show r.bits * 64 + dst.bits < 0o1000 ∧ 0o004000 % 0o1000 = 0 ∧ 0o004000 + 0o1000 ≤ 0x10000
  exact ⟨rmr_fits r dst, by decide, by decide⟩

theorem rts (r : Reg) : Statement (.rts r) := by
  show r.bits < 0o10 ∧ 0o000200 % 0o10 = 0 ∧ 0o000200 + 0o10 ≤ 0x10000
  exact ⟨r.bits_lt, by decide, by decide⟩

theorem jmp (dst : Operand) : Statement (.jmp dst) := by
  show dst.bits < 0o100 ∧ 0o000100 % 0o100 = 0 ∧ 0o000100 + 0o100 ≤ 0x10000
  exact ⟨dst.bits_lt, by decide, by decide⟩

theorem ash (r : Reg) (src : Operand) : Statement (.ash r src) := by
  show r.bits * 64 + src.bits < 0o1000 ∧ 0o072000 % 0o1000 = 0 ∧ 0o072000 + 0o1000 ≤ 0x10000
  exact ⟨rmr_fits r src, by decide, by decide⟩

theorem mul (r : Reg) (src : Operand) : Statement (.mul r src) := by
  show r.bits * 64 + src.bits < 0o1000 ∧ 0o070000 % 0o1000 = 0 ∧ 0o070000 + 0o1000 ≤ 0x10000
  exact ⟨rmr_fits r src, by decide, by decide⟩

theorem div (r : Reg) (src : Operand) : Statement (.div r src) := by
  show r.bits * 64 + src.bits < 0o1000 ∧ 0o071000 % 0o1000 = 0 ∧ 0o071000 + 0o1000 ≤ 0x10000
  exact ⟨rmr_fits r src, by decide, by decide⟩

theorem ashc (r : Reg) (src : Operand) : Statement (.ashc r src) := by
  show r.bits * 64 + src.bits < 0o1000 ∧ 0o073000 % 0o1000 = 0 ∧ 0o073000 + 0o1000 ≤ 0x10000
  exact ⟨rmr_fits r src, by decide, by decide⟩

theorem xor (r : Reg) (dst : Operand) : Statement (.xor r dst) := by
  show r.bits * 64 + dst.bits < 0o1000 ∧ 0o074000 % 0o1000 = 0 ∧ 0o074000 + 0o1000 ≤ 0x10000
  exact ⟨rmr_fits r dst, by decide, by decide⟩

theorem sob (r : Reg) (count : BitVec 6) : Statement (.sob r count) := by
  show r.bits * 64 + count.toNat < 0o1000 ∧ 0o077000 % 0o1000 = 0 ∧ 0o077000 + 0o1000 ≤ 0x10000
  exact ⟨sob_fits r count, by decide, by decide⟩

theorem ccode (set n z v c : Bool) : Statement (.ccode set n z v c) := by
  show set.toNat * 16 + n.toNat * 8 + z.toNat * 4 + v.toNat * 2 + c.toNat < 0o40 ∧ 0o000240 % 0o40 = 0 ∧ 0o000240 + 0o40 ≤ 0x10000
  exact ⟨cc_fits set n z v c, by decide, by decide⟩

theorem halt : Statement .halt := by
  show 0 < 0o1 ∧ 0o000000 % 0o1 = 0 ∧ 0o000000 + 0o1 ≤ 0x10000
  exact ⟨Nat.one_pos, by decide, by decide⟩

theorem wait : Statement .wait := by
  show 0 < 0o1 ∧ 0o000001 % 0o1 = 0 ∧ 0o000001 + 0o1 ≤ 0x10000
  exact ⟨Nat.one_pos, by decide, by decide⟩

theorem rti : Statement .rti := by
  show 0 < 0o1 ∧ 0o000002 % 0o1 = 0 ∧ 0o000002 + 0o1 ≤ 0x10000
  exact ⟨Nat.one_pos, by decide, by decide⟩

theorem rtt : Statement .rtt := by
  show 0 < 0o1 ∧ 0o000006 % 0o1 = 0 ∧ 0o000006 + 0o1 ≤ 0x10000
  exact ⟨Nat.one_pos, by decide, by decide⟩

theorem bpt : Statement .bpt := by
  show 0 < 0o1 ∧ 0o000003 % 0o1 = 0 ∧ 0o000003 + 0o1 ≤ 0x10000
  exact ⟨Nat.one_pos, by decide, by decide⟩

theorem iot : Statement .iot := by
  show 0 < 0o1 ∧ 0o000004 % 0o1 = 0 ∧ 0o000004 + 0o1 ≤ 0x10000
  exact ⟨Nat.one_pos, by decide, by decide⟩

theorem reset : Statement .reset := by
  show 0 < 0o1 ∧ 0o000005 % 0o1 = 0 ∧ 0o000005 + 0o1 ≤ 0x10000
  exact ⟨Nat.one_pos, by decide, by decide⟩

theorem spl (level : BitVec 3) : Statement (.spl level) := by
  show level.toNat < 0o10 ∧ 0o000230 % 0o10 = 0 ∧ 0o000230 + 0o10 ≤ 0x10000
  exact ⟨level.isLt, by decide, by decide⟩

theorem emt (code : BitVec 8) : Statement (.emt code) := by
  show code.toNat < 0o400 ∧ 0o104000 % 0o400 = 0 ∧ 0o104000 + 0o400 ≤ 0x10000
  exact ⟨code.isLt, by decide, by decide⟩

theorem trap (code : BitVec 8) : Statement (.trap code) := by
  show code.toNat < 0o400 ∧ 0o104400 % 0o400 = 0 ∧ 0o104400 + 0o400 ≤ 0x10000
  exact ⟨code.isLt, by decide, by decide⟩

end Sys2Proof.Laws.EncodedFields
end

