-- ==== Sys2Proof/Tests/Slice0.lean ====
section
/-! SUPPORT. Tests on fixed values. Expected results are the spec's own: spec/95_test_vectors.md (V<n>), the truth table
of its section 6, spec/opcode_table.json and the encodings of 30_encoding.md. For every statement with hypotheses a
theorem `witness_<Name>` shows a state and operands that meet them. -/

namespace Sys2Proof.Tests

open Sys2Proof.Machine

/-! ## Helpers -/

/-- The state with a word placed in core memory. -/
def word (s : State) (a v : Nat) : State := s.loadImage a (bytesOf 2 v)

/-- The reset state with an instruction's words at 0o001000 and `pc` there, as the vectors start. -/
def start (code : List Nat) : State :=
  { State.reset.loadImage 0o001000 (code.flatMap (bytesOf 2)) with pc := 0o001000 }

/-- One step comes to the state `t`, whatever the latch. -/
def becomes (s t : State) : Bool :=
  match step s with
  | .next u => { u with latch := t.latch } = t
  | .fault _ => false
  | .refused _ => false

/-- The record of a trap the instruction at 0o001000 raised. -/
def record (k : TrapKind) (opcode : Word) (faultAddr : Option Word) : Option TrapRecord :=
  some { kind := k, vector := vectorOf k, instAddr := 0o001000, opcode := some opcode, faultAddr := faultAddr }

/-- A register operand. -/
abbrev reg (r : Reg) : Operand := { mode := .register, reg := r }

/-! ## WellFormed: the one check there is (30_encoding.md R99) -/

theorem test_wellFormed_refuses_jsr_register : (Instr.jsr .r5 (reg .r0)).wellFormed = false := by decide

theorem test_wellFormed_accepts_jsr_memory : (Instr.jsr .r5 { mode := .deferred, reg := .r0 }).wellFormed = true := by
  decide

/-- The ill-formed JSR raises ILLEGAL_INSTRUCTION and pushes nothing (V7). -/
theorem test_jsr_register_traps :
    becomes ((start [0o004500]).setX .sp 0o000600)
      { ((start [0o004500]).setX .sp 0o000600).setX .pc 0o001002 with
        trap := record (.fault .illegalInstruction) 0o004500 none } = true := by
  decide

/-! ## Decoding: for every row of the opcode map a word written out from its encoding (30_encoding.md R79 to R96) -/

theorem test_decode_format_zero :
    decode 0b0000000000000000 = .ok .halt ∧
    decode 0b0000000000000001 = .ok .wait ∧
    decode 0b0000000000000010 = .ok .rti ∧
    decode 0b0000000000000011 = .ok .bpt ∧
    decode 0b0000000000000100 = .ok .iot ∧
    decode 0b0000000000000101 = .ok .reset ∧
    decode 0b0000000000000110 = .ok .rtt := by
  decide

theorem test_decode_format_reg :
    decode 0b0000000010000011 = .ok (.rts .r3) ∧
    decode 0b0000000010011101 = .ok (.spl 0b101) := by
  decide

theorem test_decode_format_cc :
    decode 0b0000000010111010 = .ok (.ccode true true false true false) := by
  decide

theorem test_decode_format_single_1 :
    decode 0b0000000001101001 = .ok (.jmp ⟨.autoDecDeferred, .r1⟩) ∧
    decode 0b0000000011101001 = .ok (.swab ⟨.autoDecDeferred, .r1⟩) ∧
    decode 0b0000101000101001 = .ok (.clr ⟨.autoDecDeferred, .r1⟩) ∧
    decode 0b0000101001101001 = .ok (.com ⟨.autoDecDeferred, .r1⟩) ∧
    decode 0b0000101010101001 = .ok (.inc ⟨.autoDecDeferred, .r1⟩) ∧
    decode 0b0000101011101001 = .ok (.dec ⟨.autoDecDeferred, .r1⟩) ∧
    decode 0b0000101100101001 = .ok (.neg ⟨.autoDecDeferred, .r1⟩) ∧
    decode 0b0000101101101001 = .ok (.adc ⟨.autoDecDeferred, .r1⟩) ∧
    decode 0b0000101110101001 = .ok (.sbc ⟨.autoDecDeferred, .r1⟩) ∧
    decode 0b0000101111101001 = .ok (.tst ⟨.autoDecDeferred, .r1⟩) ∧
    decode 0b0000110000101001 = .ok (.ror ⟨.autoDecDeferred, .r1⟩) ∧
    decode 0b0000110001101001 = .ok (.rol ⟨.autoDecDeferred, .r1⟩) ∧
    decode 0b0000110010101001 = .ok (.asr ⟨.autoDecDeferred, .r1⟩) ∧
    decode 0b0000110011101001 = .ok (.asl ⟨.autoDecDeferred, .r1⟩) := by
  decide

theorem test_decode_format_single_2 :
    decode 0b1000101000101001 = .ok (.clrb ⟨.autoDecDeferred, .r1⟩) ∧
    decode 0b1000101001101001 = .ok (.comb ⟨.autoDecDeferred, .r1⟩) ∧
    decode 0b1000101010101001 = .ok (.incb ⟨.autoDecDeferred, .r1⟩) ∧
    decode 0b1000101011101001 = .ok (.decb ⟨.autoDecDeferred, .r1⟩) ∧
    decode 0b1000101100101001 = .ok (.negb ⟨.autoDecDeferred, .r1⟩) ∧
    decode 0b1000101101101001 = .ok (.adcb ⟨.autoDecDeferred, .r1⟩) ∧
    decode 0b1000101110101001 = .ok (.sbcb ⟨.autoDecDeferred, .r1⟩) ∧
    decode 0b1000101111101001 = .ok (.tstb ⟨.autoDecDeferred, .r1⟩) ∧
    decode 0b1000110000101001 = .ok (.rorb ⟨.autoDecDeferred, .r1⟩) ∧
    decode 0b1000110001101001 = .ok (.rolb ⟨.autoDecDeferred, .r1⟩) ∧
    decode 0b1000110010101001 = .ok (.asrb ⟨.autoDecDeferred, .r1⟩) ∧
    decode 0b1000110011101001 = .ok (.aslb ⟨.autoDecDeferred, .r1⟩) ∧
    decode 0b0000110101101001 = .ok (.mfpi ⟨.autoDecDeferred, .r1⟩) ∧
    decode 0b0000110110101001 = .ok (.mtpi ⟨.autoDecDeferred, .r1⟩) := by
  decide

theorem test_decode_format_single_3 :
    decode 0b0000110111101001 = .ok (.sxt ⟨.autoDecDeferred, .r1⟩) ∧
    decode 0b1000110100101001 = .ok (.mtps ⟨.autoDecDeferred, .r1⟩) ∧
    decode 0b1000110101101001 = .ok (.mfpd ⟨.autoDecDeferred, .r1⟩) ∧
    decode 0b1000110110101001 = .ok (.mtpd ⟨.autoDecDeferred, .r1⟩) ∧
    decode 0b1000110111101001 = .ok (.mfps ⟨.autoDecDeferred, .r1⟩) := by
  decide

theorem test_decode_format_branch_1 :
    decode 0b0000000110000110 = .ok (.br 0b10000110) ∧
    decode 0b0000001010000110 = .ok (.bne 0b10000110) ∧
    decode 0b0000001110000110 = .ok (.beq 0b10000110) ∧
    decode 0b0000010010000110 = .ok (.bge 0b10000110) ∧
    decode 0b0000010110000110 = .ok (.blt 0b10000110) ∧
    decode 0b0000011010000110 = .ok (.bgt 0b10000110) ∧
    decode 0b0000011110000110 = .ok (.ble 0b10000110) ∧
    decode 0b1000000010000110 = .ok (.bpl 0b10000110) ∧
    decode 0b1000000110000110 = .ok (.bmi 0b10000110) ∧
    decode 0b1000001010000110 = .ok (.bhi 0b10000110) ∧
    decode 0b1000001110000110 = .ok (.blos 0b10000110) ∧
    decode 0b1000010010000110 = .ok (.bvc 0b10000110) ∧
    decode 0b1000010110000110 = .ok (.bvs 0b10000110) ∧
    decode 0b1000011010000110 = .ok (.bcc 0b10000110) := by
  decide

theorem test_decode_format_branch_2 :
    decode 0b1000011110000110 = .ok (.bcs 0b10000110) := by
  decide

theorem test_decode_format_rmr :
    decode 0b0000100011101001 = .ok (.jsr .r3 ⟨.autoDecDeferred, .r1⟩) ∧
    decode 0b0111000011010110 = .ok (.mul .r3 ⟨.autoInc, .sp⟩) ∧
    decode 0b0111001011010110 = .ok (.div .r3 ⟨.autoInc, .sp⟩) ∧
    decode 0b0111010011010110 = .ok (.ash .r3 ⟨.autoInc, .sp⟩) ∧
    decode 0b0111011011010110 = .ok (.ashc .r3 ⟨.autoInc, .sp⟩) ∧
    decode 0b0111100011101001 = .ok (.xor .r3 ⟨.autoDecDeferred, .r1⟩) := by
  decide

theorem test_decode_format_mark :
    decode 0b0000110100101101 = .ok (.mark 0b101101) := by
  decide

theorem test_decode_format_double :
    decode 0b0001010110101001 = .ok (.mov ⟨.autoInc, .sp⟩ ⟨.autoDecDeferred, .r1⟩) ∧
    decode 0b0010010110101001 = .ok (.cmp ⟨.autoInc, .sp⟩ ⟨.autoDecDeferred, .r1⟩) ∧
    decode 0b0011010110101001 = .ok (.bit ⟨.autoInc, .sp⟩ ⟨.autoDecDeferred, .r1⟩) ∧
    decode 0b0100010110101001 = .ok (.bic ⟨.autoInc, .sp⟩ ⟨.autoDecDeferred, .r1⟩) ∧
    decode 0b0101010110101001 = .ok (.bis ⟨.autoInc, .sp⟩ ⟨.autoDecDeferred, .r1⟩) ∧
    decode 0b0110010110101001 = .ok (.add ⟨.autoInc, .sp⟩ ⟨.autoDecDeferred, .r1⟩) ∧
    decode 0b1001010110101001 = .ok (.movb ⟨.autoInc, .sp⟩ ⟨.autoDecDeferred, .r1⟩) ∧
    decode 0b1010010110101001 = .ok (.cmpb ⟨.autoInc, .sp⟩ ⟨.autoDecDeferred, .r1⟩) ∧
    decode 0b1011010110101001 = .ok (.bitb ⟨.autoInc, .sp⟩ ⟨.autoDecDeferred, .r1⟩) ∧
    decode 0b1100010110101001 = .ok (.bicb ⟨.autoInc, .sp⟩ ⟨.autoDecDeferred, .r1⟩) ∧
    decode 0b1101010110101001 = .ok (.bisb ⟨.autoInc, .sp⟩ ⟨.autoDecDeferred, .r1⟩) ∧
    decode 0b1110010110101001 = .ok (.sub ⟨.autoInc, .sp⟩ ⟨.autoDecDeferred, .r1⟩) := by
  decide

theorem test_decode_format_sob :
    decode 0b0111111011101101 = .ok (.sob .r3 0b101101) := by
  decide

theorem test_decode_format_code :
    decode 0b1000100001011010 = .ok (.emt 0b01011010) ∧
    decode 0b1000100101011010 = .ok (.trap 0b01011010) := by
  decide

/-- The rows of spec/opcode_table.json: match, mask. -/
def opcodeRows1 : List (Nat × Nat) :=
  [(0o000000, 0o177777), (0o000001, 0o177777), (0o000002, 0o177777), (0o000003, 0o177777), (0o000004, 0o177777),
   (0o000005, 0o177777), (0o000006, 0o177777), (0o000200, 0o177770), (0o000230, 0o177770), (0o000240, 0o177740),
   (0o000100, 0o177700), (0o000300, 0o177700), (0o000400, 0o177400), (0o001000, 0o177400), (0o001400, 0o177400),
   (0o002000, 0o177400), (0o002400, 0o177400), (0o003000, 0o177400), (0o003400, 0o177400), (0o100000, 0o177400)]

def opcodeRows2 : List (Nat × Nat) :=
  [(0o100400, 0o177400), (0o101000, 0o177400), (0o101400, 0o177400), (0o102000, 0o177400), (0o102400, 0o177400),
   (0o103000, 0o177400), (0o103400, 0o177400), (0o004000, 0o177000), (0o005000, 0o177700), (0o005100, 0o177700),
   (0o005200, 0o177700), (0o005300, 0o177700), (0o005400, 0o177700), (0o005500, 0o177700), (0o005600, 0o177700),
   (0o005700, 0o177700), (0o006000, 0o177700), (0o006100, 0o177700), (0o006200, 0o177700), (0o006300, 0o177700)]

def opcodeRows3 : List (Nat × Nat) :=
  [(0o105000, 0o177700), (0o105100, 0o177700), (0o105200, 0o177700), (0o105300, 0o177700), (0o105400, 0o177700),
   (0o105500, 0o177700), (0o105600, 0o177700), (0o105700, 0o177700), (0o106000, 0o177700), (0o106100, 0o177700),
   (0o106200, 0o177700), (0o106300, 0o177700), (0o006400, 0o177700), (0o006500, 0o177700), (0o006600, 0o177700),
   (0o006700, 0o177700), (0o106400, 0o177700), (0o106500, 0o177700), (0o106600, 0o177700), (0o106700, 0o177700)]

def opcodeRows4 : List (Nat × Nat) :=
  [(0o010000, 0o170000), (0o020000, 0o170000), (0o030000, 0o170000), (0o040000, 0o170000), (0o050000, 0o170000),
   (0o060000, 0o170000), (0o110000, 0o170000), (0o120000, 0o170000), (0o130000, 0o170000), (0o140000, 0o170000),
   (0o150000, 0o170000), (0o160000, 0o170000), (0o070000, 0o177000), (0o071000, 0o177000), (0o072000, 0o177000),
   (0o073000, 0o177000), (0o074000, 0o177000), (0o077000, 0o177000), (0o104000, 0o177400), (0o104400, 0o177400)]

/-- All 80 rows. -/
def opcodeRows : List (Nat × Nat) := opcodeRows1 ++ opcodeRows2 ++ opcodeRows3 ++ opcodeRows4

/-- No two rows share a word (30_encoding.md R93): where both fix a bit, some such bit differs. -/
theorem test_opcode_rows_disjoint :
    opcodeRows.Pairwise (fun r q => (r.1 ^^^ q.1) &&& (r.2 &&& q.2) ≠ 0) := by
  decide +kernel

/-- Each row's match word decodes to an instruction with that row's fixed bits and free bits. -/
theorem test_opcode_rows_decode :
    (opcodeRows.all fun r =>
      match decode (BitVec.ofNat 16 r.1) with
      | .ok i => i.opcode == r.1 && i.operandSpan == 0x10000 - r.2
      | .error _ => false) = true := by
  decide +kernel

/-- The words at the edges of the ranges of R97 are UNKNOWN (V176 to V188). -/
theorem test_unknown_edges :
    ([0o000007, 0o000010, 0o000077, 0o000210, 0o000227, 0o007000, 0o007777, 0o075000, 0o076777, 0o107000, 0o107777,
      0o170000, 0o177777].all fun n =>
      match decode (BitVec.ofNat 16 n) with
      | .ok _ => false
      | .error e => e == .unknownOpcode (BitVec.ofNat 16 n)) = true := by
  decide

/-! ## Branches: the truth table of 95_test_vectors.md section 6, one row a value of NZVC, bit 0 the row 0000 -/

/-- The state after a branch at 0o001000 with offset 3 in every state of the condition codes: taken where the bit of
the column is 1. -/
def branchColumn (i : Instr) (column : Nat) : Prop :=
  ∀ f : Fin 16,
    exec i { State.reset with pc := 0o001002, psw := BitVec.ofNat 16 f.val } =
      .next
        { State.reset with
          pc := if column.testBit f.val then 0o001010 else 0o001002, psw := BitVec.ofNat 16 f.val }

theorem test_branch_br : branchColumn (.br 3) 0b1111111111111111 := by
  intro f
  fin_cases f <;> rfl

theorem test_branch_bne : branchColumn (.bne 3) 0b0000111100001111 := by
  intro f
  fin_cases f <;> rfl

theorem test_branch_beq : branchColumn (.beq 3) 0b1111000011110000 := by
  intro f
  fin_cases f <;> rfl

theorem test_branch_bge : branchColumn (.bge 3) 0b1100110000110011 := by
  intro f
  fin_cases f <;> rfl

theorem test_branch_blt : branchColumn (.blt 3) 0b0011001111001100 := by
  intro f
  fin_cases f <;> rfl

theorem test_branch_bgt : branchColumn (.bgt 3) 0b0000110000000011 := by
  intro f
  fin_cases f <;> rfl

theorem test_branch_ble : branchColumn (.ble 3) 0b1111001111111100 := by
  intro f
  fin_cases f <;> rfl

theorem test_branch_bpl : branchColumn (.bpl 3) 0b0000000011111111 := by
  intro f
  fin_cases f <;> rfl

theorem test_branch_bmi : branchColumn (.bmi 3) 0b1111111100000000 := by
  intro f
  fin_cases f <;> rfl

theorem test_branch_bhi : branchColumn (.bhi 3) 0b0000010100000101 := by
  intro f
  fin_cases f <;> rfl

theorem test_branch_blos : branchColumn (.blos 3) 0b1111101011111010 := by
  intro f
  fin_cases f <;> rfl

theorem test_branch_bvc : branchColumn (.bvc 3) 0b0011001100110011 := by
  intro f
  fin_cases f <;> rfl

theorem test_branch_bvs : branchColumn (.bvs 3) 0b1100110011001100 := by
  intro f
  fin_cases f <;> rfl

theorem test_branch_bcc : branchColumn (.bcc 3) 0b0101010101010101 := by
  intro f
  fin_cases f <;> rfl

theorem test_branch_bcs : branchColumn (.bcs 3) 0b1010101010101010 := by
  intro f
  fin_cases f <;> rfl

/-! ## Vectors: one step each, at most two an instruction -/

/-- V39: MOV #0, R0, C kept. -/
theorem test_mov_keeps_c :
    let s := { (start [0o012700, 0o000000]).setX .r0 0o000005 with psw := 0o000013 }
    becomes s
      { (s.setX .r0 0o000000).setX .pc 0o001004 with psw := 0o000005 } = true := by
  decide

/-- V69: MOV #0, @#0o160000 (flags written before the faulting store). -/
theorem test_mov_flags_before_faulting_store :
    let s := { start [0o012737, 0o000000, 0o160000] with psw := 0o000010 }
    becomes s
      { s.setX .pc 0o001006 with
        psw := 0o000004, trap := record (.fault .nonexistentAddress) 0o012737 (some 0o160000) } = true := by
  decide

/-- V41: MOVB #0o200, R1 (sign extension). -/
theorem test_movb_sign_extends :
    let s := start [0o112701, 0o000200]
    becomes s
      { (s.setX .r1 0o177600).setX .pc 0o001004 with psw := 0o000010 } = true := by
  decide

/-- V43: MOVB #0o200, (R1), memory keeps the other byte. -/
theorem test_movb_memory_keeps_other_byte :
    let s := word ((start [0o112711, 0o000200]).setX .r1 0o002000) 0o002000 0o177777
    becomes s
      { word (s.setX .pc 0o001004) 0o002000 0o177600 with psw := 0o000010 } = true := by
  decide

/-- V47: CMP R0, R1, 1 - 0o100000. -/
theorem test_cmp_overflow_and_borrow :
    let s := ((start [0o020001]).setX .r0 0o000001).setX .r1 0o100000
    becomes s
      { s.setX .pc 0o001002 with psw := 0o000013 } = true := by
  decide

/-- V68: CMP (R0)+, (R1)+ with R1 odd. -/
theorem test_cmp_fault_keeps_increments :
    let s := ((start [0o022021]).setX .r0 0o002000).setX .r1 0o002201
    becomes s
      { ((s.setX .r0 0o002002).setX .r1 0o002203).setX .pc 0o001002 with
        trap := record (.fault .oddAddress) 0o022021 (some 0o002201) } = true := by
  decide

/-- V48: CMPB R0, R1, 0o200 - 1. -/
theorem test_cmpb_overflow :
    let s := ((start [0o120001]).setX .r0 0o000200).setX .r1 0o000001
    becomes s
      { s.setX .pc 0o001002 with psw := 0o000002 } = true := by
  decide

/-- V49: CMPB R0, R1, high bytes ignored. -/
theorem test_cmpb_ignores_high_bytes :
    let s := ((start [0o120001]).setX .r0 0o177401).setX .r1 0o000401
    becomes s
      { s.setX .pc 0o001002 with psw := 0o000004 } = true := by
  decide

/-- V51: BIT #0o10, R0, no common bit. -/
theorem test_bit_keeps_c :
    let s := { (start [0o032700, 0o000010]).setX .r0 0o000007 with psw := 0o000001 }
    becomes s
      { s.setX .pc 0o001004 with psw := 0o000005 } = true := by
  decide

/-- V52: BITB #0o200, R0. -/
theorem test_bitb_negative :
    let s := (start [0o132700, 0o000200]).setX .r0 0o000200
    becomes s
      { s.setX .pc 0o001004 with psw := 0o000010 } = true := by
  decide

/-- V53: BIC #0o17, R0. -/
theorem test_bic_word :
    let s := { (start [0o042700, 0o000017]).setX .r0 0o177777 with psw := 0o000001 }
    becomes s
      { (s.setX .r0 0o177760).setX .pc 0o001004 with psw := 0o000011 } = true := by
  decide

/-- V54: BICB #0o377, R0, high byte kept. -/
theorem test_bicb_keeps_high_byte :
    let s := (start [0o142700, 0o000377]).setX .r0 0o177777
    becomes s
      { (s.setX .r0 0o177400).setX .pc 0o001004 with psw := 0o000004 } = true := by
  decide

/-- V55: BIS #0o100000, R0. -/
theorem test_bis_word :
    let s := (start [0o052700, 0o100000]).setX .r0 0o000001
    becomes s
      { (s.setX .r0 0o100001).setX .pc 0o001004 with psw := 0o000010 } = true := by
  decide

/-- V56: BISB R1, (R0). -/
theorem test_bisb_memory :
    let s := word (((start [0o150110]).setX .r0 0o002001).setX .r1 0o000201) 0o002000 0o000401
    becomes s
      { word (s.setX .pc 0o001002) 0o002000 0o100401 with psw := 0o000010 } = true := by
  decide

/-- V1: ADD R0, R1 (0x7FFF + 0x0001). -/
theorem test_add_signed_overflow :
    let s := ((start [0o060001]).setX .r0 0o000001).setX .r1 0o077777
    becomes s
      { (s.setX .r1 0o100000).setX .pc 0o001002 with psw := 0o000012 } = true := by
  decide

/-- V58: ADD R0, R1, negative overflow. -/
theorem test_add_carry_and_overflow :
    let s := ((start [0o060001]).setX .r0 0o100000).setX .r1 0o100000
    becomes s
      { (s.setX .r1 0o000000).setX .pc 0o001002 with psw := 0o000007 } = true := by
  decide

/-- V2: SUB R0, R1 (0x0000 - 0x0001). -/
theorem test_sub_borrow :
    let s := ((start [0o160001]).setX .r0 0o000001).setX .r1 0o000000
    becomes s
      { (s.setX .r1 0o177777).setX .pc 0o001002 with psw := 0o000011 } = true := by
  decide

/-- V60: SUB R0, R1, 1 - 0o100000. -/
theorem test_sub_overflow :
    let s := ((start [0o160001]).setX .r0 0o100000).setX .r1 0o000001
    becomes s
      { (s.setX .r1 0o100001).setX .pc 0o001002 with psw := 0o000013 } = true := by
  decide

/-- V70: CLR R0. -/
theorem test_clr_clears_flags :
    let s := { (start [0o005000]).setX .r0 0o001234 with psw := 0o000017 }
    becomes s
      { (s.setX .r0 0o000000).setX .pc 0o001002 with psw := 0o000004 } = true := by
  decide

/-- V6: CLR @#0o177776, no device. -/
theorem test_clr_flags_before_faulting_store :
    let s := start [0o005037, 0o177776]
    becomes s
      { s.setX .pc 0o001004 with
        psw := 0o000004, trap := record (.fault .nonexistentAddress) 0o005037 (some 0o177776) } = true := by
  decide

/-- V71: CLRB R0, high byte kept. -/
theorem test_clrb_keeps_high_byte :
    let s := (start [0o105000]).setX .r0 0o177777
    becomes s
      { (s.setX .r0 0o177400).setX .pc 0o001002 with psw := 0o000004 } = true := by
  decide

/-- V72: CLRB (R1). -/
theorem test_clrb_odd_address :
    let s := word ((start [0o105011]).setX .r1 0o002001) 0o002000 0o177777
    becomes s
      { word (s.setX .pc 0o001002) 0o002000 0o000377 with psw := 0o000004 } = true := by
  decide

/-- V73: COM R0. -/
theorem test_com_word :
    let s := (start [0o005100]).setX .r0 0o000000
    becomes s
      { (s.setX .r0 0o177777).setX .pc 0o001002 with psw := 0o000011 } = true := by
  decide

/-- V74: COMB R0. -/
theorem test_comb_byte :
    let s := (start [0o105100]).setX .r0 0o000377
    becomes s
      { (s.setX .r0 0o000000).setX .pc 0o001002 with psw := 0o000005 } = true := by
  decide

/-- V75: INC R0, 0o077777, C kept. -/
theorem test_inc_overflow_keeps_c :
    let s := { (start [0o005200]).setX .r0 0o077777 with psw := 0o000001 }
    becomes s
      { (s.setX .r0 0o100000).setX .pc 0o001002 with psw := 0o000013 } = true := by
  decide

/-- V85: INC @#0o160000, no device. -/
theorem test_inc_fault_keeps_flags :
    let s := { start [0o005237, 0o160000] with psw := 0o000017 }
    becomes s
      { s.setX .pc 0o001004 with trap := record (.fault .nonexistentAddress) 0o005237 (some 0o160000) } = true := by
  decide

/-- V77: INCB R0, 0o177. -/
theorem test_incb_overflow :
    let s := (start [0o105200]).setX .r0 0o000177
    becomes s
      { (s.setX .r0 0o000200).setX .pc 0o001002 with psw := 0o000012 } = true := by
  decide

/-- V78: INCB R0, 0o001377, high byte kept. -/
theorem test_incb_keeps_high_byte :
    let s := (start [0o105200]).setX .r0 0o001377
    becomes s
      { (s.setX .r0 0o001000).setX .pc 0o001002 with psw := 0o000004 } = true := by
  decide

/-- V79: DEC R0, 0o100000. -/
theorem test_dec_overflow :
    let s := (start [0o005300]).setX .r0 0o100000
    becomes s
      { (s.setX .r0 0o077777).setX .pc 0o001002 with psw := 0o000002 } = true := by
  decide

/-- V80: DEC R0, 0. -/
theorem test_dec_wraps :
    let s := (start [0o005300]).setX .r0 0o000000
    becomes s
      { (s.setX .r0 0o177777).setX .pc 0o001002 with psw := 0o000010 } = true := by
  decide

/-- V81: DECB R0, 0o200. -/
theorem test_decb_overflow :
    let s := (start [0o105300]).setX .r0 0o000200
    becomes s
      { (s.setX .r0 0o000177).setX .pc 0o001002 with psw := 0o000002 } = true := by
  decide

/-- V82: TST R0, 0o100000, V and C cleared. -/
theorem test_tst_clears_v_and_c :
    let s := { (start [0o005700]).setX .r0 0o100000 with psw := 0o000003 }
    becomes s
      { s.setX .pc 0o001002 with psw := 0o000010 } = true := by
  decide

/-- V84: TST (SP)+. -/
theorem test_tst_increments_sp :
    let s := (start [0o005726]).setX .sp 0o002000
    becomes s
      { (s.setX .sp 0o002002).setX .pc 0o001002 with psw := 0o000004 } = true := by
  decide

/-- V83: TSTB (R1)+. -/
theorem test_tstb_increments_by_one :
    let s := (start [0o105721]).setX .r1 0o002000
    becomes s
      { (s.setX .r1 0o002001).setX .pc 0o001002 with psw := 0o000004 } = true := by
  decide

/-- V88: BR .-254 (offset -128, the smallest). -/
theorem test_br_smallest_offset :
    let s := start [0o000600]
    becomes s (s.setX .pc 0o000402) = true := by
  decide

/-- V93: JSR R5, @#0o2000. -/
theorem test_jsr_links_r5 :
    let s := ((start [0o004537, 0o002000]).setX .r5 0o001234).setX .sp 0o000600
    becomes s (word (((s.setX .r5 0o001004).setX .sp 0o000576).setX .pc 0o002000) 0o000576 0o001234) = true := by
  decide

/-- V97: JSR R1, (R1)+. -/
theorem test_jsr_pushes_incremented_value :
    let s := ((start [0o004121]).setX .r1 0o002000).setX .sp 0o000600
    becomes s (word (((s.setX .r1 0o001002).setX .sp 0o000576).setX .pc 0o002000) 0o000576 0o002002) = true := by
  decide

/-- V99: RTS R5. -/
theorem test_rts_r5 :
    let s := word (((start [0o000205]).setX .r5 0o001234).setX .sp 0o000576) 0o000576 0o000111
    becomes s (((s.setX .r5 0o000111).setX .sp 0o000600).setX .pc 0o001234) = true := by
  decide

/-- V100: RTS PC. -/
theorem test_rts_pc :
    let s := word ((start [0o000207]).setX .sp 0o000576) 0o000576 0o003000
    becomes s ((s.setX .sp 0o000600).setX .pc 0o003000) = true := by
  decide

/-- V103: ASH #-2, R0. -/
theorem test_ash_right_carry :
    let s := (start [0o072027, 0o177776]).setX .r0 0o100003
    becomes s
      { (s.setX .r0 0o160000).setX .pc 0o001004 with psw := 0o000011 } = true := by
  decide

/-- V107: ASH #16, R0. -/
theorem test_ash_left_sixteen :
    let s := (start [0o072027, 0o000020]).setX .r0 0o000001
    becomes s
      { (s.setX .r0 0o000000).setX .pc 0o001004 with psw := 0o000007 } = true := by
  decide

/-- V114: MUL #2, R0, negative. -/
theorem test_mul_negative :
    let s := (start [0o070027, 0o000002]).setX .r0 0o177777
    becomes s
      { (s.setX .r1 0o177776).setX .pc 0o001004 with psw := 0o000010 } = true := by
  decide

/-- V116: MUL #1, R0, 32767 (HANDBOOK). -/
theorem test_mul_handbook_bound :
    let s :=
      { (start [0o070027, 0o000001]).setX .r0 0o077777 with
        params := { Params.default with mulCBound := .handbook } }
    becomes s
      { ((s.setX .r0 0o000000).setX .r1 0o077777).setX .pc 0o001004 with psw := 0o000001 } = true := by
  decide

/-- V123: CLN!CLV. -/
theorem test_ccode_clears_n_and_v :
    let s := { start [0o000252] with psw := 0o000012 }
    becomes s
      { s.setX .pc 0o001002 with psw := 0o000000 } = true := by
  decide

/-- V128: SCC in user mode. -/
theorem test_ccode_sets_all_in_user_mode :
    let s := { start [0o000277] with psw := 0o140000 }
    becomes s
      { s.setX .pc 0o001002 with psw := 0o140017 } = true := by
  decide

/-- V129: HALT in kernel mode. -/
theorem test_halt_in_kernel_mode :
    let s := start [0o000000]
    becomes s
      { s.setX .pc 0o001002 with trap := record (.halt) 0o000000 none } = true := by
  decide

/-- V130: HALT in user mode. -/
theorem test_halt_in_user_mode :
    let s := { start [0o000000] with psw := 0o140000 }
    becomes s
      { s.setX .pc 0o001002 with trap := record (.fault .illegalInstruction) 0o000000 none } = true := by
  decide

/-- V133: WAIT in user mode. -/
theorem test_wait_in_user_mode :
    let s := { start [0o000001] with psw := 0o140000 }
    becomes s
      { s.setX .pc 0o001002 with trap := record (.wait) 0o000001 none } = true := by
  decide

/-- V134: RTI to user mode. -/
theorem test_rti_to_user_mode :
    let s :=
      { word (word ((start [0o000002]).setX .sp 0o000700) 0o000700 0o002000) 0o000702 0o140017 with
        spslot := { SpSlots.zero with user := 0o001500 } }
    becomes s
      { (s.setX .sp 0o001500).setX .pc 0o002000 with
        psw := 0o140017, spslot := { s.spslot with kernel := 0o000704 } } = true := by
  decide

/-- V135: RTI switching to register set 1. -/
theorem test_rti_switches_banks :
    let s :=
      { word (word ((((start [0o000002]).setX .r0 0o000001).setX .r5 0o000005).setX .sp 0o000700) 0o000700 0o002000) 0o000702 0o004000 with
        shadow := { Bank.zero with r0 := 0o000100, r5 := 0o000500 } }
    becomes s
      { (((s.setX .r0 0o000100).setX .r5 0o000500).setX .sp 0o000704).setX .pc 0o002000 with
        psw := 0o004000, shadow := { Bank.zero with r0 := 0o000001, r5 := 0o000005 } } = true := by
  decide

/-- V140: RTT to user mode. -/
theorem test_rtt_to_user_mode :
    let s :=
      { word (word ((start [0o000006]).setX .sp 0o000700) 0o000700 0o002000) 0o000702 0o140017 with
        spslot := { SpSlots.zero with user := 0o001500 } }
    becomes s
      { (s.setX .sp 0o001500).setX .pc 0o002000 with
        psw := 0o140017, spslot := { s.spslot with kernel := 0o000704 } } = true := by
  decide

/-- V142 to V175: every stub raises ILLEGAL_INSTRUCTION and changes nothing else, an autoincrement operand included. -/
def stubWords : List Nat :=
  [0o000003, 0o000004, 0o000005, 0o000233, 0o000137, 0o000300, 0o005420, 0o005500, 0o005600, 0o006000, 0o006100,
   0o006200, 0o006300, 0o105420, 0o105500, 0o105600, 0o106000, 0o106100, 0o106200, 0o106300, 0o006401, 0o006520,
   0o006620, 0o006700, 0o106400, 0o106520, 0o106620, 0o106700, 0o071027, 0o073027, 0o074020, 0o077001, 0o104000,
   0o104777]

theorem test_stubs :
    (stubWords.all fun n =>
      let s := { ((start [n]).setX .r0 0o002000).setX .r1 0o003000 with psw := 0o000017 }
      becomes s
        { s.setX .pc 0o001002 with
          trap := record (.fault .illegalInstruction) (BitVec.ofNat 16 n) none }) = true := by
  decide

/-! ## Operations -/

/-- The resolver's table (20_memory.md R71) on R1 = 0o002000, byte size, with the pointer 0o003000 there. -/
def modeState : State := (word (word (start [0o000004]) 0o002000 0o003000) 0o001776 0o003777).setX .r1 0o002000

theorem test_resolve_autoInc_byte :
    resolve { mode := .autoInc, reg := .r1 } .byte modeState = .ok (.mem 0o002000) (modeState.setX .r1 0o002001) := by
  decide

theorem test_resolve_autoInc_sp_byte :
    resolve { mode := .autoInc, reg := .sp } .byte (modeState.setX .sp 0o000600) =
      .ok (.mem 0o000600) (modeState.setX .sp 0o000602) := by
  decide

theorem test_resolve_autoIncDeferred_byte :
    resolve { mode := .autoIncDeferred, reg := .r1 } .byte modeState =
      .ok (.mem 0o003000) (modeState.setX .r1 0o002002) := by
  decide

theorem test_resolve_autoDec_byte :
    resolve { mode := .autoDec, reg := .r1 } .byte modeState = .ok (.mem 0o001777) (modeState.setX .r1 0o001777) := by
  decide

theorem test_resolve_autoDecDeferred :
    resolve { mode := .autoDecDeferred, reg := .r1 } .word modeState =
      .ok (.mem 0o003777) (modeState.setX .r1 0o001776) := by
  decide

/-- The base register is read after the index word is fetched, so `pc` as a base is past it (R65). -/
theorem test_resolve_index_pc :
    resolve { mode := .index, reg := .pc } .word modeState = .ok (.mem 0o001006) (modeState.setX .pc 0o001002) := by
  decide

theorem test_resolve_indexDeferred :
    resolve { mode := .indexDeferred, reg := .r1 } .word (word modeState 0o002004 0o000123) =
      .ok (.mem 0o000123) ((word modeState 0o002004 0o000123).setX .pc 0o001002) := by
  decide

/-- With RESOLVE_BOTH_FIRST a source in mode 0 sees what the destination's resolution did (41_double_operand.md
R103). -/
theorem test_resolve_both_first_reads_late :
    let s := { (start [0o010020]).setX .r0 0o002000 with
               params := { Params.default with operandOrder := .resolveBothFirst } }
    becomes s (word ((s.setX .pc 0o001002).setX .r0 0o002002) 0o002000 0o002002) = true := by
  decide

/-- V34: an opcode fetch at an odd `pc` leaves `pc` and records no opcode. -/
theorem test_fetch_odd_pc :
    let s := { State.reset with pc := 0o001001 }
    becomes s
      { s with
        trap := some
          { kind := .fault .oddAddress, vector := some 0o000004, instAddr := 0o001001, opcode := none,
            faultAddr := some 0o001001 } } = true := by
  decide

/-- V29: an index word fetched from I/O space with no device. -/
theorem test_fetch_index_in_io_space :
    let s := { word State.reset 0o157776 0o016100 with pc := 0o157776 }
    becomes s
      { s with
        pc := 0o160000,
        trap := some
          { kind := .fault .nonexistentAddress, vector := some 0o000250, instAddr := 0o157776,
            opcode := some 0o016100, faultAddr := some 0o160000 } } = true := by
  decide

/-- V196, V197: with a trap pending nothing executes; after the host clears it the next instruction runs. -/
theorem test_pending_then_resume :
    let s := { start [0o170000, 0o005200] with pc := 0o001002, trap := record .halt 0o170000 none }
    becomes s s = true ∧ becomes s.clearTrap ((s.clearTrap.setX .r0 0o000001).setX .pc 0o001004) = true := by
  decide

/-- A device of 4 bytes at 0o177560 (95_test_vectors.md section 11), listed before one that overlaps it. -/
def withDevice : State :=
  { start [0o010037, 0o177560] with
    devices := [{ base := 0o177560, length := 4, handler := 1, context := 2 },
      { base := 0o177562, length := 4, handler := 3, context := 4 }] }

theorem test_lookup_takes_first_binding :
    withDevice.deviceLookup 0o177563 = some { base := 0o177560, length := 4, handler := 1, context := 2 } ∧
    withDevice.deviceLookup 0o177564 = some { base := 0o177562, length := 4, handler := 3, context := 4 } ∧
    withDevice.deviceLookup 0o177557 = none := by
  decide

/-- V189: MOV to a device register makes one Store and no Load; here the device takes the value. -/
theorem test_mov_to_device_stores_once (h : Config.deviceStore [] ⟨1, 2, .store [0, 0], 0, .word⟩ = .done) :
    exec (.mov (reg .r0) { mode := .deferred, reg := .r1 }) (withDevice.setX .r1 0o177560) =
      .next
        { withDevice.setX .r1 0o177560 with psw := 0o000004, deviceLog := [⟨1, 2, .store [0, 0], 0, .word⟩] } := by
  show Res.outcome (State.deviceStore _ _ _ _ _) = _
  unfold State.deviceStore
  dsimp only
  generalize hx : Config.deviceStore _ _ = answer
  have done : answer = .done := hx.symm.trans h
  subst done
  rfl

/-- With TCACHE = ON a word stored to after its execution is refused (20_memory.md R75). -/
theorem test_stale_word_refused :
    step { start [0o000240] with
           params := { Params.default with tcache := true },
           thunks := { bound := [0o001000], overwritten := [0o001000] } } =
      .refused .staleTranslation := by
  rfl

/-- P1 (95_test_vectors.md section 13), its first two steps only: the program starts from the loaded image. -/
theorem test_run_out_of_fuel_is_no_end :
    run 1 (start [0o000777]) =
      .notEnded { start [0o000777] with latch := { instAddr := 0o001000, opcode := some 0o000777 } } := by
  rfl

/-! ## Witnesses: states and operands that meet the hypotheses of the statements -/

/-- Two register operands, R1 = 0o000003 and R0 = 0o000005. -/
def two : State := ((start []).setX .r1 0o000003).setX .r0 0o000005

theorem two_gets (sz : Size) :
    GetsOperands sz (reg .r1) (reg .r0) two 0o000003 0o000005 (.reg .r0) two := by
  cases sz <;> exact ⟨_, _, _, _, rfl, rfl, rfl, rfl⟩

/-- The same under RESOLVE_BOTH_FIRST. -/
def twoBoth : State := { two with params := { Params.default with operandOrder := .resolveBothFirst } }

theorem twoBoth_gets (sz : Size) :
    GetsOperands sz (reg .r1) (reg .r0) twoBoth 0o000003 0o000005 (.reg .r0) twoBoth := by
  cases sz <;> exact ⟨_, _, _, _, rfl, rfl, rfl, rfl⟩

/-- A destination in I/O space with no device, for the alternative in which the write traps: a byte form reads it
first, so only MOV, CLR and their like reach that write; R1 = 0o177777. -/
def highest : State := (start []).setX .r1 0o177777

/-- An operand whose resolution traps: a deferred pointer at an odd address. -/
abbrev oddPointer : Operand := { mode := .autoIncDeferred, reg := .r1 }

/-- An operand that resolves and whose word read traps: R1 odd. -/
abbrev oddOperand : Operand := { mode := .deferred, reg := .r1 }

/-- A byte operand that resolves and whose read traps: I/O space with no device. -/
abbrev ioOperand : Operand := { mode := .deferred, reg := .r1 }

theorem witness_EncodeDecodeAgree : decode 0o012701 = .ok (.mov ⟨.autoInc, .pc⟩ (reg .r1)) := by decide

/-- The opcode word of a `start` program, fetched. -/
def fetched (s : State) (w : Word) : State :=
  { s with pc := 0o001002, latch := { instAddr := 0o001000, opcode := some w } }

theorem witness_UnknownWordsTrap :
    (start [0o170000]).trap = none ∧ ¬ (start [0o170000]).stale (start [0o170000]).pc ∧
    (start [0o170000]).fetchOpcode = .ok 0o170000 (fetched (start [0o170000]) 0o170000) ∧ UnknownWord 0o170000 := by
  refine ⟨by decide, by decide, by decide, ?_⟩
  unfold UnknownWord
  decide

theorem witness_MovClassDecodesToMov :
    (0o010000 : Word).extractLsb' 12 4 = 1 ∧ (0o017777 : Word).extractLsb' 12 4 = 1 ∧
    (0o110000 : Word).extractLsb' 12 4 = 9 ∧ (0o117777 : Word).extractLsb' 12 4 = 9 := by
  decide

theorem witness_StepRunsDecoded :
    let s := start [0o005200]
    s.trap = none ∧ ¬ s.stale s.pc ∧ s.fetchOpcode = .ok 0o005200 (fetched s 0o005200) ∧
    decode 0o005200 = .ok (.inc (reg .r0)) ∧ s.pc.getLsbD 0 = false ∧ s.inCore s.pc ∧
    s.core.read (s.pc.toNat + 1) ++ s.core.read s.pc.toNat = (0o005200 : Word) ∧ s.params.tcache = false := by
  decide

theorem witness_FetchAdvancesPc :
    (start [0o005200]).memRead (start [0o005200]).pc .word = .ok 0o005200 (start [0o005200]) ∧
    (let s := { State.reset with pc := 0o001001 }
     s.memRead s.pc .word = .trapped (s.raise (.fault .oddAddress) (some 0o001001)) ∧ s.trap = none ∧
     s.pc.getLsbD 0 = true ∧ ∃ t, s.fetchOpcode = .trapped t) ∧
    let s := { State.reset with pc := 0o160000 }
    s.memRead s.pc .word = .trapped (s.raise (.fault .nonexistentAddress) (some 0o160000)) := by
  exact ⟨by decide, ⟨by decide, rfl, by decide, _, rfl⟩, by decide⟩

theorem witness_PendingTrapStopsExecution :
    ∃ r, ({ State.reset with trap := record .halt 0 none } : State).trap = some r := ⟨_, rfl⟩

/-- TCACHE = ON, with a NOP at `pc`. -/
def cached (bound overwritten : List Word) : State :=
  { start [0o000240] with
    params := { Params.default with tcache := true }, thunks := { bound := bound, overwritten := overwritten } }

theorem witness_TranslatedWordsRefusedWhenStale :
    (let s := cached [0o001000] [0o001000]
     s.trap = none ∧ s.params.tcache = true ∧ s.fetchOpcode = .ok 0o000240 (fetched s 0o000240) ∧
     s.pc ∈ s.thunks.overwritten) ∧
    (let s := cached [] []
     s.trap = none ∧ s.params.tcache = true ∧ s.fetchOpcode = .ok 0o000240 (fetched s 0o000240) ∧
     ∃ t, step s = .next t) ∧
    (let s := cached [0o001000] []
     (∃ t, s.memWrite 0o001001 .byte 5 = .ok () t) ∧ wordAddr 0o001001 ∈ s.thunks.bound) ∧
    State.reset.params.tcache = false := by
  exact ⟨by decide, ⟨by decide, by decide, by decide, _, rfl⟩, ⟨⟨_, rfl⟩, by decide⟩, by decide⟩

theorem witness_ResetMeetsInvariant :
    Params.default.valid ∧ { Params.default with ioBase := 2 }.valid ∧ { Params.default with ioBase := 0x10000 }.valid := by
  decide

theorem start_inv : (start [0o005200]).Inv := by
  unfold State.Inv
  decide

theorem witness_StepKeepsInvariant : (start [0o005200]).Inv ∧ ∃ t, step (start [0o005200]) = .next t :=
  ⟨start_inv, _, rfl⟩

theorem witness_VectorsAreOneToOne :
    vectorOf (.fault .oddAddress) = some 0o000004 ∧ vectorOf (.fault .nonexistentAddress) = some 0o000250 := by
  decide

theorem witness_TrapsHaveTheirCauses :
    (let s := start [0o000000]
     s.trap = none ∧ ∃ t r, step s = .next t ∧ t.trap = some r ∧ r.opcode = some 0o000000) ∧
    let s := { State.reset with pc := 0o001001 }
    s.trap = none ∧ ∃ t r, step s = .next t ∧ t.trap = some r ∧ r.opcode = none := by
  exact ⟨⟨rfl, _, _, rfl, rfl, rfl⟩, rfl, _, _, rfl, rfl, rfl⟩

theorem witness_OnlyThreeModeChecks : Instr.wait ≠ .halt ∧ Instr.wait ≠ .rti ∧ Instr.wait ≠ .rtt := by decide

theorem witness_ControlChangesOnlyByReturn :
    (∃ t, step (start [0o005200]) = .next t) ∧
    (∀ w u, (start [0o005200]).fetchOpcode = .ok w u → w ≠ 0o000002 ∧ w ≠ 0o000006) ∧
    (let s := { start [0o000002] with psw := 0o140000 }
     ¬ s.kernel ∧ ∃ t, step s = .next t) := by
  refine ⟨⟨_, rfl⟩, fun w u h => ?_, by decide, _, rfl⟩
  have : (start [0o005200]).fetchOpcode = .ok 0o005200 (fetched (start [0o005200]) 0o005200) := by decide
  rw [this] at h
  cases h
  decide

theorem witness_EveryInstructionAnswers : State.reset.devices = [] ∧ State.reset.params.tcache = false := by decide

theorem witness_MovResult :
    (let s := highest
     s.params.operandOrder = .srcFirst ∧ (∃ w, resolve oddPointer .word s = .trapped w) ∧
     (resolve oddOperand .word s = .ok (.mem 0o177777) s ∧ ∃ w, readOp (.mem 0o177777) .word s = .trapped w) ∧
     (resolve (reg .r0) .word s = .ok (.reg .r0) s ∧ readOp (.reg .r0) .word s = .ok 0 s ∧
      let s3 := s.setCC { n := (0 : Word).getLsbD 15, z := decide ((0 : Word) = 0), v := false, c := s.cc.c }
      (∃ w, resolve oddPointer .word s3 = .trapped w) ∧
      (resolve oddOperand .word s3 = .ok (.mem 0o177777) s3 ∧
        ∃ w, (writeOp (.mem 0o177777) .word 0 s3).endsIn w) ∧
      (resolve (reg .r2) .word s3 = .ok (.reg .r2) s3 ∧ ∃ w, (writeOp (.reg .r2) .word 0 s3).endsIn w))) := by
  exact ⟨rfl, ⟨_, rfl⟩, ⟨rfl, _, rfl⟩, rfl, rfl, ⟨_, rfl⟩, ⟨rfl, _, .inr rfl⟩, rfl, _, .inl rfl⟩

theorem witness_MovbResult :
    (let s := highest
     s.params.operandOrder = .srcFirst ∧ (∃ w, resolve oddPointer .byte s = .trapped w) ∧
     (resolve ioOperand .byte s = .ok (.mem 0o177777) s ∧ ∃ w, readOp (.mem 0o177777) .byte s = .trapped w) ∧
     (resolve (reg .r1) .byte s = .ok (.reg .r1) s ∧ readOp (.reg .r1) .byte s = .ok (ofByte 0o377) s ∧
      let s3 := s.setCC { n := (0o377 : Byte).getLsbD 7, z := decide ((0o377 : Byte) = 0), v := false, c := s.cc.c }
      (∃ w, resolve oddPointer .byte s3 = .trapped w) ∧
      (∃ s4, resolve (reg .r2) .byte s3 = .ok (.reg .r2) s4) ∧
      (resolve ioOperand .byte s3 = .ok (.mem 0o177777) s3 ∧
        ∃ w, (s3.memWrite 0o177777 .byte (ofByte 0o377)).endsIn w))) := by
  exact ⟨rfl, ⟨_, rfl⟩, ⟨rfl, _, rfl⟩, rfl, rfl, ⟨_, rfl⟩, ⟨_, rfl⟩, rfl, _, .inr rfl⟩

/-- `highest` under RESOLVE_BOTH_FIRST: `oddPointer` traps in its resolution, `oddOperand` in its read. -/
def highestBoth : State := { highest with params := { Params.default with operandOrder := .resolveBothFirst } }

theorem witness_MoveResolvesBothFirst :
    (highestBoth.params.operandOrder = .resolveBothFirst ∧
      (∃ u, resolve oddPointer .word highestBoth = .trapped u) ∧
      (resolve oddOperand .word highestBoth = .ok (.mem 0o177777) highestBoth ∧
        resolve (reg .r0) .word highestBoth = .ok (.reg .r0) highestBoth ∧
        ∃ u, readOp (.mem 0o177777) .word highestBoth = .trapped u)) ∧
    twoBoth.params.operandOrder = .resolveBothFirst ∧
    (resolve (reg .r1) .word twoBoth = .ok (.reg .r1) twoBoth ∧ resolve (reg .r0) .word twoBoth = .ok (.reg .r0) twoBoth ∧
      readOp (.reg .r1) .word twoBoth = .ok 0o000003 twoBoth ∧
      ∃ w, (writeOp (.reg .r0) .word 0o000003
        (twoBoth.setCC { n := (3 : Word).getLsbD 15, z := decide ((3 : Word) = 0), v := false, c := twoBoth.cc.c })).endsIn
          w) ∧
    (resolve (reg .r1) .byte twoBoth = .ok (.reg .r1) twoBoth ∧ resolve (reg .r0) .byte twoBoth = .ok (.reg .r0) twoBoth ∧
      readOp (.reg .r1) .byte twoBoth = .ok (ofByte 0o003) twoBoth) ∧
    (resolve oddOperand .byte twoBoth = .ok (.mem 0o000003) twoBoth ∧
      ∃ w, (twoBoth.memWrite 0o000003 .byte (ofByte 0o003)).endsIn w) := by
  exact ⟨⟨rfl, ⟨_, rfl⟩, rfl, rfl, _, rfl⟩, rfl, ⟨rfl, rfl, rfl, _, .inl rfl⟩, ⟨rfl, rfl, rfl⟩, rfl, _, .inl rfl⟩

theorem witness_CompareResults :
    GetsOperands .word (reg .r1) (reg .r0) two 0o000003 0o000005 (.reg .r0) two ∧
    GetsOperands .byte (reg .r1) (reg .r0) two (ofByte 0o003) (ofByte 0o005) (.reg .r0) two ∧
    GetsOperands .word (reg .r1) (reg .r0) twoBoth 0o000003 0o000005 (.reg .r0) twoBoth :=
  ⟨two_gets .word, two_gets .byte, twoBoth_gets .word⟩

theorem witness_BitTestResults :
    GetsOperands .word (reg .r1) (reg .r0) two 0o000003 0o000005 (.reg .r0) two ∧
    GetsOperands .byte (reg .r1) (reg .r0) twoBoth (ofByte 0o003) (ofByte 0o005) (.reg .r0) twoBoth :=
  ⟨two_gets .word, twoBoth_gets .byte⟩

/-- The write of any word or byte to R0 ends in a state. -/
theorem writes_r0 (sz : Size) (v : Word) (s : State) : ∃ w, (writeOp (.reg .r0) sz v s).endsIn w := ⟨_, .inl rfl⟩

theorem witness_BitClearResults :
    (GetsOperands .word (reg .r1) (reg .r0) two 0o000003 0o000005 (.reg .r0) two ∧
      ∃ w, (writeOp (.reg .r0) .word (~~~3 &&& 5)
        (two.setCC { n := (~~~3 &&& 5 : Word).getLsbD 15, z := decide ((~~~3 &&& 5 : Word) = 0), v := false,
                     c := two.cc.c })).endsIn w) ∧
    (GetsOperands .byte (reg .r1) (reg .r0) two (ofByte 0o003) (ofByte 0o005) (.reg .r0) two ∧
      ∃ w, (writeOp (.reg .r0) .byte (ofByte (~~~3 &&& 5))
        (two.setCC { n := (~~~3 &&& 5 : Byte).getLsbD 7, z := decide ((~~~3 &&& 5 : Byte) = 0), v := false,
                     c := two.cc.c })).endsIn w) :=
  ⟨⟨two_gets .word, writes_r0 _ _ _⟩, two_gets .byte, writes_r0 _ _ _⟩

theorem witness_BitSetResults :
    (GetsOperands .word (reg .r1) (reg .r0) two 0o000003 0o000005 (.reg .r0) two ∧
      ∃ w, (writeOp (.reg .r0) .word (3 ||| 5)
        (two.setCC { n := (3 ||| 5 : Word).getLsbD 15, z := decide ((3 ||| 5 : Word) = 0), v := false,
                     c := two.cc.c })).endsIn w) ∧
    (GetsOperands .byte (reg .r1) (reg .r0) two (ofByte 0o003) (ofByte 0o005) (.reg .r0) two ∧
      ∃ w, (writeOp (.reg .r0) .byte (ofByte (3 ||| 5))
        (two.setCC { n := (3 ||| 5 : Byte).getLsbD 7, z := decide ((3 ||| 5 : Byte) = 0), v := false,
                     c := two.cc.c })).endsIn w) :=
  ⟨⟨two_gets .word, writes_r0 _ _ _⟩, two_gets .byte, writes_r0 _ _ _⟩

theorem witness_AddResult :
    GetsOperands .word (reg .r1) (reg .r0) two 0o000003 0o000005 (.reg .r0) two ∧
    ∃ w, (writeOp (.reg .r0) .word (BitVec.ofNat 16 ((3 : Word).toNat + (5 : Word).toNat))
      (two.setCC
        { n := (8 : Word).getLsbD 15, z := decide ((8 : Word) = 0),
          v := decide ((3 : Word).getLsbD 15 = (5 : Word).getLsbD 15 ∧ (8 : Word).getLsbD 15 ≠ (3 : Word).getLsbD 15),
          c := decide (2 ^ 16 ≤ (3 : Word).toNat + (5 : Word).toNat) })).endsIn w :=
  ⟨two_gets .word, writes_r0 _ _ _⟩

theorem witness_SubResult :
    GetsOperands .word (reg .r1) (reg .r0) two 0o000003 0o000005 (.reg .r0) two ∧
    ∃ w, (writeOp (.reg .r0) .word (5 - 3)
      (two.setCC
        { n := (5 - 3 : Word).getLsbD 15, z := decide ((5 - 3 : Word) = 0),
          v := decide ((3 : Word).getLsbD 15 ≠ (5 : Word).getLsbD 15 ∧
            (5 - 3 : Word).getLsbD 15 = (3 : Word).getLsbD 15),
          c := decide ((5 : Word).toNat < (3 : Word).toNat) })).endsIn w :=
  ⟨two_gets .word, writes_r0 _ _ _⟩

/-- One register operand, read. -/
theorem two_get (sz : Size) : GetsOperand sz (reg .r0) two 0o000005 (.reg .r0) two := by
  cases sz <;> exact ⟨_, rfl, rfl⟩

theorem witness_ClearResults :
    let u := highest.setCC { n := false, z := true, v := false, c := false }
    (resolve (reg .r0) .word u = .ok (.reg .r0) u ∧ ∃ w, (writeOp (.reg .r0) .word 0 u).endsIn w) ∧
    (resolve oddOperand .word u = .ok (.mem 0o177777) u ∧ ∃ w, (writeOp (.mem 0o177777) .word 0 u).endsIn w) ∧
    (∃ w, resolve oddPointer .word u = .trapped w) ∧
    (resolve ioOperand .byte u = .ok (.mem 0o177777) u ∧ ∃ w, (writeOp (.mem 0o177777) .byte 0 u).endsIn w) ∧
    ∃ w, resolve oddPointer .byte u = .trapped w := by
  exact ⟨⟨rfl, _, .inl rfl⟩, ⟨rfl, _, .inr rfl⟩, ⟨_, rfl⟩, ⟨rfl, _, .inr rfl⟩, _, rfl⟩

theorem witness_ComplementResults :
    (GetsOperand .word (reg .r0) two 0o000005 (.reg .r0) two ∧
      ∃ w, (writeOp (.reg .r0) .word (~~~5)
        (two.setCC { n := (~~~5 : Word).getLsbD 15, z := decide ((~~~5 : Word) = 0), v := false, c := true })).endsIn w) ∧
    (GetsOperand .byte (reg .r0) two (ofByte 0o005) (.reg .r0) two ∧
      ∃ w, (writeOp (.reg .r0) .byte (ofByte (~~~5))
        (two.setCC { n := (~~~5 : Byte).getLsbD 7, z := decide ((~~~5 : Byte) = 0), v := false, c := true })).endsIn w) :=
  ⟨⟨two_get .word, writes_r0 _ _ _⟩, two_get .byte, writes_r0 _ _ _⟩

theorem witness_IncrementResults :
    (GetsOperand .word (reg .r0) two 0o000005 (.reg .r0) two ∧
      ∃ w, (writeOp (.reg .r0) .word (5 + 1)
        (two.setCC { n := (5 + 1 : Word).getLsbD 15, z := decide ((5 + 1 : Word) = 0),
                     v := decide ((5 + 1 : Word) = 0o100000), c := two.cc.c })).endsIn w) ∧
    (GetsOperand .byte (reg .r0) two (ofByte 0o005) (.reg .r0) two ∧
      ∃ w, (writeOp (.reg .r0) .byte (ofByte (5 + 1))
        (two.setCC { n := (5 + 1 : Byte).getLsbD 7, z := decide ((5 + 1 : Byte) = 0),
                     v := decide ((5 + 1 : Byte) = 0o200), c := two.cc.c })).endsIn w) :=
  ⟨⟨two_get .word, writes_r0 _ _ _⟩, two_get .byte, writes_r0 _ _ _⟩

theorem witness_DecrementResults :
    (GetsOperand .word (reg .r0) two 0o000005 (.reg .r0) two ∧
      ∃ w, (writeOp (.reg .r0) .word (5 - 1)
        (two.setCC { n := (5 - 1 : Word).getLsbD 15, z := decide ((5 - 1 : Word) = 0),
                     v := decide ((5 - 1 : Word) = 0o077777), c := two.cc.c })).endsIn w) ∧
    (GetsOperand .byte (reg .r0) two (ofByte 0o005) (.reg .r0) two ∧
      ∃ w, (writeOp (.reg .r0) .byte (ofByte (5 - 1))
        (two.setCC { n := (5 - 1 : Byte).getLsbD 7, z := decide ((5 - 1 : Byte) = 0),
                     v := decide ((5 - 1 : Byte) = 0o177), c := two.cc.c })).endsIn w) :=
  ⟨⟨two_get .word, writes_r0 _ _ _⟩, two_get .byte, writes_r0 _ _ _⟩

theorem witness_TestResults :
    GetsOperand .word (reg .r0) two 0o000005 (.reg .r0) two ∧
    GetsOperand .byte (reg .r0) two (ofByte 0o005) (.reg .r0) two :=
  ⟨two_get .word, two_get .byte⟩

/-- V68: CMP (R0)+, (R1)+ with R1 odd: the destination's read traps after both registers have stepped. -/
def oddDestination : State := ((start []).setX .r0 0o002000).setX .r1 0o002201

theorem witness_OperandTrapEndsInstruction :
    (∃ u, TwoOperandsTrap .word ⟨.autoInc, .r0⟩ ⟨.autoInc, .r1⟩ oddDestination u ∧ u.x .r0 = 0o002002 ∧
      u.x .r1 = 0o002203) ∧
    (∃ u, TwoOperandsTrap .byte (reg .r0) ioOperand highest u) ∧
    (∃ u, TwoOperandsTrap .word oddOperand (reg .r0) highestBoth u) ∧
    (∃ u, TwoOperandsTrap .word (reg .r0) oddPointer highestBoth u) ∧
    (∃ u, TwoOperandsTrap .word (reg .r0) oddOperand highestBoth u) ∧
    (∃ u, MoveTraps .word (reg .r0) oddPointer highest u) ∧ (∃ u, MoveTraps .byte ioOperand (reg .r0) highestBoth u) ∧
    (∃ u, OperandTraps .word oddOperand highest u) ∧ (∃ u, OperandTraps .byte oddPointer highest u) ∧
    (let t := highest.setCC { n := false, z := true, v := false, c := false }
     (∃ u, resolve oddPointer .word t = .trapped u) ∧ ∃ u, resolve oddPointer .byte t = .trapped u) ∧
    ∃ u, resolve oddPointer .word highest = .trapped u := by
  exact ⟨⟨_, .inr ⟨_, _, _, _, rfl, rfl, .inr ⟨_, _, rfl, rfl⟩⟩, rfl, rfl⟩,
    ⟨_, .inr ⟨_, _, _, _, rfl, rfl, .inr ⟨_, _, rfl, rfl⟩⟩⟩,
    ⟨_, .inr ⟨_, _, rfl, .inr ⟨_, _, rfl, .inl rfl⟩⟩⟩, ⟨_, .inr ⟨_, _, rfl, .inl rfl⟩⟩,
    ⟨_, .inr ⟨_, _, rfl, .inr ⟨_, _, rfl, .inr ⟨_, _, rfl, rfl⟩⟩⟩⟩, ⟨_, .inr ⟨_, _, _, _, rfl, rfl, rfl⟩⟩,
    ⟨_, .inr ⟨_, _, rfl, .inr ⟨_, _, rfl, rfl⟩⟩⟩, ⟨_, .inr ⟨_, _, rfl, rfl⟩⟩, ⟨_, .inl rfl⟩,
    ⟨⟨_, rfl⟩, _, rfl⟩, _, rfl⟩

theorem witness_CompareThenBranch :
    GetsOperands .word (reg .r1) (reg .r0) two 0o000003 0o000005 (.reg .r0) two := two_gets .word

/-- JSR through R5 to the address in R1, with a stack in core memory. -/
def calling : State := (((start []).setX .r1 0o002000).setX .r5 0o001234).setX .sp 0o000600

theorem witness_JsrResult :
    (reg .r0).mode = .register ∧ (∃ w, resolve oddPointer .word highest = .trapped w) ∧
    resolve oddOperand .word calling = .ok (.mem 0o002000) calling ∧
    (∃ t, (calling.setX .sp 0o000576).memWrite 0o000576 .word (calling.x .r5) = .ok () t) ∧
    (let s := calling.setX .sp 0o000601
     resolve oddOperand .word s = .ok (.mem 0o002000) s ∧
     ∃ w, (s.setX .sp (s.x .sp - 2)).memWrite (s.x .sp - 2) .word (s.x .r5) = .trapped w) ∧
    Reg.r5 ≠ .sp := by
  exact ⟨rfl, ⟨_, rfl⟩, rfl, ⟨_, rfl⟩, ⟨rfl, _, rfl⟩, by decide⟩

theorem witness_RtsResult :
    calling.memRead (calling.x .sp) .word = .ok 0 calling ∧
    ∃ u, (calling.setX .sp 0o000577).memRead 0o000577 .word = .trapped u := by
  exact ⟨rfl, _, rfl⟩

theorem witness_RtsUndoesJsr :
    (Reg.r5 ≠ .sp ∧ Reg.pc ≠ .sp) ∧ calling.core.wf ∧
    resolve oddOperand .word calling = .ok (.mem 0o002000) calling ∧
    (calling.x .sp - 2).getLsbD 0 = false ∧ calling.inCore (calling.x .sp - 2) ∧
    (∃ u m : State, exec (.jsr .r5 oddOperand) calling = .next u ∧ m.x .sp = u.x .sp ∧ (Reg.r5 ≠ .pc → m.x .r5 = u.x .r5) ∧
      m.params = u.params ∧ m.core.read (u.x .sp).toNat = u.core.read (u.x .sp).toNat ∧
      m.core.read ((u.x .sp).toNat + 1) = u.core.read ((u.x .sp).toNat + 1)) ∧
    ∃ u, exec (.jsr .pc oddOperand) calling = .next u := by
  refine ⟨by decide, by decide, rfl, by decide, by decide, ?_, _, rfl⟩
  exact ⟨_, _, rfl, rfl, fun _ => rfl, rfl, rfl, rfl⟩

/-- A shift count in R2 and a value in R1. -/
def shifting (count : Word) : State := ((start []).setX .r2 count).setX .r1 0o100003

theorem shifting_gets (count : Word) :
    GetsOperand .word (reg .r2) (shifting count) count (.reg .r2) (shifting count) := ⟨_, rfl, rfl⟩

/-- The three cases of the count, at the ends of its range; bits 15:6 do not count. -/
theorem witness_AshResult :
    (GetsOperand .word (reg .r2) (shifting 0o000100) 0o000100 (.reg .r2) (shifting 0o000100) ∧
      ((0o000100 : Word).extractLsb' 0 6).toInt = 0) ∧
    (GetsOperand .word (reg .r2) (shifting 0o000037) 0o000037 (.reg .r2) (shifting 0o000037) ∧
      0 < ((0o000037 : Word).extractLsb' 0 6).toInt) ∧
    (GetsOperand .word (reg .r2) (shifting 0o177777) 0o177777 (.reg .r2) (shifting 0o177777) ∧
      ((0o177777 : Word).extractLsb' 0 6).toInt < 0) ∧
    (GetsOperand .word (reg .r2) (shifting 0o000040) 0o000040 (.reg .r2) (shifting 0o000040) ∧
      ((0o000040 : Word).extractLsb' 0 6).toInt < 0) :=
  ⟨⟨shifting_gets _, by decide⟩, ⟨shifting_gets _, by decide⟩, ⟨shifting_gets _, by decide⟩, shifting_gets _,
    by decide⟩

theorem witness_MulResult :
    GetsOperand .word (reg .r2) (shifting 0o000003) 0o000003 (.reg .r2) (shifting 0o000003) ∧
    (Reg.sp, Reg.sp, Reg.pc) ∈ [(Reg.r0, Reg.r0, Reg.r1), (.r2, .r2, .r3), (.r4, .r4, .r5), (.sp, .sp, .pc)] ∧
    Reg.pc ∈ [Reg.r1, .r3, .r5, .pc] :=
  ⟨shifting_gets _, by decide, by decide⟩

theorem witness_HaltWaitResult :
    State.reset.psw.extractLsb' 14 2 = 0 ∧
    ({ State.reset with psw := 0o040000 } : State).psw.extractLsb' 14 2 ≠ 0 ∧
    ({ State.reset with psw := 0o140000 } : State).psw.extractLsb' 14 2 ≠ 0 := by
  decide

theorem witness_ReturnFromTrapResult :
    Instr.rti ∈ [Instr.rti, .rtt] ∧ Instr.rtt ∈ [Instr.rti, .rtt] ∧
    ({ State.reset with psw := 0o100000 } : State).psw.extractLsb' 14 2 ≠ 0 ∧
    calling.psw.extractLsb' 14 2 = 0 ∧
    (∃ w, (calling.setX .sp 0o000577).memRead 0o000577 .word = .trapped w) ∧
    (calling.memRead (calling.x .sp) .word = .ok 0 calling ∧
      ∃ v t, ((calling.setX .pc 0).setX .sp 0o000602).memRead 0o000602 .word = .ok v t) ∧
    (let s := calling.setX .sp 0o157776
     s.memRead 0o157776 .word = .ok 0 s ∧
     ∃ w, ((s.setX .pc 0).setX .sp 0o160000).memRead 0o160000 .word = .trapped w) := by
  exact ⟨by decide, by decide, by decide, by decide, ⟨_, rfl⟩, ⟨rfl, _, _, rfl⟩, rfl, _, rfl⟩

theorem witness_WritePswSwitches :
    (0o004000 : Word).getLsbD 11 ≠ State.reset.psw.getLsbD 11 ∧
    (0o140000 : Word).getLsbD 11 = State.reset.psw.getLsbD 11 ∧
    (0o140000 : Word).extractLsb' 14 2 ≠ State.reset.psw.extractLsb' 14 2 ∧
    (0o004000 : Word).extractLsb' 14 2 = State.reset.psw.extractLsb' 14 2 := by
  decide

theorem witness_StubsRaiseIllegalInstruction :
    let s := start [0o000300]
    (Instr.swab (reg .r0)).isStub = true ∧ s.trap = none ∧ ¬ s.stale s.pc ∧
    s.fetchOpcode = .ok 0o000300 (fetched s 0o000300) ∧ decode 0o000300 = .ok (.swab (reg .r0)) := by
  decide

/-- The cases of an access: odd, the last core word, the first I/O address, a device's first and last word. -/
theorem witness_MemReadFollowsItsSteps :
    (0o157777 : Word).getLsbD 0 = true ∧ (0o157777 : Word).toNat < withDevice.params.ioBase ∧
    ((0o157776 : Word).getLsbD 0 = false ∧ (0o157776 : Word).toNat < withDevice.params.ioBase) ∧
    ((0o160000 : Word).getLsbD 0 = false ∧ withDevice.params.ioBase ≤ (0o160000 : Word).toNat ∧
      withDevice.deviceLookup 0o160000 = none) ∧
    (withDevice.params.ioBase ≤ (0o177562 : Word).toNat ∧ (0o177562 : Word).getLsbD 0 = false ∧
      ∃ b, withDevice.deviceLookup 0o177562 = some b) := by
  exact ⟨by decide, by decide, by decide, by decide, by decide, by decide, _, rfl⟩

theorem witness_MemWriteFollowsItsSteps :
    (0o157777 : Word).getLsbD 0 = true ∧ (0o157777 : Word).toNat < withDevice.params.ioBase ∧
    ((0o157776 : Word).getLsbD 0 = false ∧ (0o157776 : Word).toNat < withDevice.params.ioBase) ∧
    (withDevice.params.ioBase ≤ (0o177777 : Word).toNat ∧ withDevice.deviceLookup 0o177777 = none) ∧
    (withDevice.params.ioBase ≤ (0o177565 : Word).toNat ∧ ∃ b, withDevice.deviceLookup 0o177565 = some b) ∧
    withDevice.params.tcache = false := by
  exact ⟨by decide, by decide, by decide, by decide, ⟨by decide, _, rfl⟩, by decide⟩

theorem witness_DeviceLookupTakesFirst :
    (0o157776 : Word).toNat < withDevice.params.ioBase ∧ ¬ misaligned 0o157776 .word ∧
    (∃ b, withDevice.deviceLookup 0o177560 = some b) ∧ withDevice.deviceLookup 0o177557 = none ∧
    ∃ t, step (start [0o005200]) = .next t := by
  exact ⟨by decide, by decide, ⟨_, rfl⟩, by decide, _, rfl⟩

theorem witness_StoredBytesReadBack :
    two.core.wf ∧ two.inCore 0o157776 ∧ (∃ t, two.memWrite 0o157776 .word 0o123456 = .ok () t) ∧
    (∃ t, two.memWrite 0o157777 .byte 0o000377 = .ok () t) ∧ two.inCore 0o157777 ∧ two.params.valid ∧
    two.memRead 0o157776 .word = .ok 0 two := by
  exact ⟨by decide, by decide, ⟨_, rfl⟩, ⟨_, rfl⟩, by decide, by decide, rfl⟩

theorem witness_AddressingModes :
    modeState.memRead (modeState.x .r1) .word = .ok 0o003000 modeState ∧
    (∃ t, highest.memRead (highest.x .r1) .word = .trapped t) ∧
    (∃ t, (modeState.setX .r1 0o001776).memRead 0o001776 .word = .ok 0o003777 t) ∧
    (∃ t, (highest.setX .r1 (highest.x .r1 - 2)).memRead (highest.x .r1 - 2) .word = .trapped t) ∧
    (modeState.fetch = .ok 0o000004 (modeState.setX .pc 0o001002) ∧
      (∃ u, (modeState.setX .pc 0o001002).memRead 0o002004 .word = .ok 0 u)) ∧
    (let s := modeState.setX .r1 0o002001
     s.fetch = .ok 0o000004 (s.setX .pc 0o001002) ∧
     ∃ u, (s.setX .pc 0o001002).memRead 0o002005 .word = .trapped u) ∧
    ∃ t, (modeState.setX .pc 0o001001).fetch = .trapped t := by
  exact ⟨rfl, ⟨_, rfl⟩, ⟨_, rfl⟩, ⟨_, rfl⟩, ⟨rfl, _, rfl⟩, ⟨rfl, _, rfl⟩, _, rfl⟩

theorem witness_InstructionLength :
    (∃ t, resolve ⟨.autoDec, .pc⟩ .word modeState = .ok (.mem 0o000776) t) ∧
    (∃ t, resolve ⟨.autoInc, .pc⟩ .byte modeState = .ok (.mem 0o001000) t) ∧
    (∃ l t, resolve ⟨.index, .r1⟩ .byte modeState = .ok l t) ∧
    ∃ l t, resolve ⟨.autoInc, .r1⟩ .byte modeState = .ok l t := by
  exact ⟨⟨_, rfl⟩, ⟨_, rfl⟩, ⟨_, _, rfl⟩, _, _, rfl⟩

theorem witness_ReadAndWriteThroughLocators : ∃ v t, readOp (.mem 0o157777) .byte two = .ok v t := ⟨_, _, rfl⟩

theorem witness_FrameTwoOperandWriters :
    (∃ t, exec (.mov (reg .r1) (reg .r0)) two = .next t) ∧ (∃ t, exec (.movb (reg .r1) oddOperand) two = .next t) ∧
    (∃ t, exec (.bic (reg .r1) (reg .r0)) two = .next t) ∧ (∃ t, exec (.bis (reg .r1) (reg .r0)) two = .next t) ∧
    (∃ t, exec (.bicb (reg .r1) oddOperand) two = .next t) ∧ (∃ t, exec (.bisb (reg .r1) oddOperand) two = .next t) ∧
    (∃ t, exec (.add (reg .r1) (reg .r0)) two = .next t) ∧ (∃ t, exec (.sub (reg .r1) (reg .r0)) two = .next t) := by
  exact ⟨⟨_, rfl⟩, ⟨_, rfl⟩, ⟨_, rfl⟩, ⟨_, rfl⟩, ⟨_, rfl⟩, ⟨_, rfl⟩, ⟨_, rfl⟩, _, rfl⟩

theorem witness_FrameFlagOnly :
    (∃ t, exec (.cmp (reg .r1) (reg .r0)) two = .next t) ∧ (∃ t, exec (.cmpb (reg .r1) oddOperand) two = .next t) ∧
    (∃ t, exec (.bit (reg .r1) (reg .r0)) two = .next t) ∧ (∃ t, exec (.bitb (reg .r1) oddOperand) two = .next t) ∧
    (∃ t, exec (.tst (reg .r0)) two = .next t) ∧ (∃ t, exec (.tstb oddOperand) two = .next t) := by
  exact ⟨⟨_, rfl⟩, ⟨_, rfl⟩, ⟨_, rfl⟩, ⟨_, rfl⟩, ⟨_, rfl⟩, _, rfl⟩

theorem witness_FrameOneOperandWriters :
    (∃ t, exec (.clr (reg .r0)) two = .next t) ∧ (∃ t, exec (.clrb oddOperand) two = .next t) ∧
    (∃ t, exec (.com (reg .r0)) two = .next t) ∧ (∃ t, exec (.comb oddOperand) two = .next t) ∧
    (∃ t, exec (.inc (reg .r0)) two = .next t) ∧ (∃ t, exec (.incb oddOperand) two = .next t) ∧
    (∃ t, exec (.dec (reg .r0)) two = .next t) ∧ (∃ t, exec (.decb oddOperand) two = .next t) := by
  exact ⟨⟨_, rfl⟩, ⟨_, rfl⟩, ⟨_, rfl⟩, ⟨_, rfl⟩, ⟨_, rfl⟩, ⟨_, rfl⟩, ⟨_, rfl⟩, _, rfl⟩

theorem witness_FrameRegisterOps :
    (∃ t, exec (.ash .r0 (reg .r1)) two = .next t) ∧ ∃ t, exec (.mul .r0 (reg .r1)) two = .next t := by
  exact ⟨⟨_, rfl⟩, _, rfl⟩

theorem witness_FrameStackInstructions :
    (∃ t, exec (.jsr .r5 oddOperand) calling = .next t) ∧ (∃ t, exec (.rts .r5) calling = .next t) ∧
    (∃ t, exec .rti calling = .next t) ∧ ∃ t, exec .rtt calling = .next t := by
  exact ⟨⟨_, rfl⟩, ⟨_, rfl⟩, ⟨_, rfl⟩, _, rfl⟩

end Sys2Proof.Tests
end

/-! PROOFS. The V and C flags of the arithmetic instructions against exact integer arithmetic (00_scope.md R14). The
sign comparisons that the rules state V by are the library's signed overflow, at every width; each flag function is
brought to that form once, and a byte operand's flags to those of its eight bits. -/

namespace Sys2Proof.Machine

/-! ## Signed overflow at every width -/

section Overflow
variable {w : Nat} (x y : BitVec w)

/-- The sign condition of ADD's rule (41_double_operand.md R117): like signs, and the sum's sign differs. -/
theorem msb_beq_and_msb_add_bne : (x.msb == y.msb && (x + y).msb != x.msb) = x.saddOverflow y := by
  rw [BitVec.saddOverflow_eq, bne]

/-- The sign condition of CMP's rule (41_double_operand.md R109): unlike signs, and the difference does not have the
minuend's. -/
theorem msb_bne_and_msb_sub_bne : (x.msb != y.msb && (x - y).msb != x.msb) = x.ssubOverflow y := by
  rw [BitVec.ssubOverflow_eq]
  cases x.msb <;> cases y.msb <;> cases (x - y).msb <;> rfl

/-- The sign condition of SUB's rule (41_double_operand.md R118): unlike signs, and the difference has the
subtrahend's. -/
theorem msb_bne_and_msb_sub_beq : (y.msb != x.msb && (x - y).msb == y.msb) = x.ssubOverflow y := by
  rw [BitVec.ssubOverflow_eq]
  cases x.msb <;> cases y.msb <;> cases (x - y).msb <;> rfl

theorem saddOverflow_eq_decide : x.saddOverflow y =
    decide (x.toInt + y.toInt < -2 ^ (w - 1) ∨ 2 ^ (w - 1) ≤ x.toInt + y.toInt) := by
  rw [BitVec.saddOverflow, Bool.or_comm, Bool.decide_or]

theorem ssubOverflow_eq_decide : x.ssubOverflow y =
    decide (x.toInt - y.toInt < -2 ^ (w - 1) ∨ 2 ^ (w - 1) ≤ x.toInt - y.toInt) := by
  rw [BitVec.ssubOverflow, Bool.or_comm, Bool.decide_or]

/-- The increment reaches the most negative value exactly from the largest one, the only one whose successor does not
fit. -/
theorem add_one_eq_intMin_iff : x + 1#w = BitVec.intMin w ↔ 2 ^ (w - 1) ≤ x.toInt + 1 := by
  have hmax : x + 1#w = BitVec.intMin w ↔ x.toInt = 2 ^ (w - 1) - 1 := by
    rw [← BitVec.intMax_add_one, BitVec.add_left_inj, ← BitVec.toInt_inj, BitVec.toInt_intMax]
  have hlt := x.toInt_lt
  rw [hmax]
  omega

/-- The decrement reaches the largest value exactly from the most negative one, the only one whose predecessor does
not fit. -/
theorem sub_one_eq_intMax_iff (hw : 0 < w) : x - 1#w = BitVec.intMax w ↔ x.toInt - 1 < -2 ^ (w - 1) := by
  have hmin : x - 1#w = BitVec.intMax w ↔ x.toInt = -2 ^ (w - 1) := by
    rw [sub_eq_iff_eq_add, BitVec.intMax_add_one, ← BitVec.toInt_inj, BitVec.toInt_intMin_of_pos hw]
  have hle := x.le_toInt
  rw [hmin]
  omega

end Overflow

/-! ## The V flags of the model -/

theorem signOf_word_eq_msb (v : Word) : signOf .word v = v.msb := (BitVec.msb_eq_getLsbD_last v).symm

theorem signOf_ofByte_eq_msb (b : Byte) : signOf .byte (ofByte b) = b.msb := by
  rw [signOf_ofByte, BitVec.msb_eq_getLsbD_last]

theorem addFlags_v (v d : Word) (cc : CC) : (addFlags v d cc).v = v.saddOverflow d := by
  simp only [addFlags, addResult, signOf_word_eq_msb, msb_beq_and_msb_add_bne]

theorem subFlags_v (v d : Word) (cc : CC) : (subFlags v d cc).v = d.ssubOverflow v := by
  simp only [subFlags, diff_word, signOf_word_eq_msb, msb_bne_and_msb_sub_beq]

theorem cmpFlags_word_v (v d : Word) (cc : CC) : (cmpFlags .word v d cc).v = v.ssubOverflow d := by
  simp only [cmpFlags, diff_word, signOf_word_eq_msb, msb_bne_and_msb_sub_bne]

theorem cmpFlags_byte_v (v d : Byte) (cc : CC) :
    (cmpFlags .byte (ofByte v) (ofByte d) cc).v = v.ssubOverflow d := by
  simp only [cmpFlags, diff_byte, signOf_ofByte_eq_msb, msb_bne_and_msb_sub_bne]

theorem minOf_byte : minOf .byte = ofByte (BitVec.intMin 8) := rfl

theorem maxOf_byte : maxOf .byte = ofByte (BitVec.intMax 8) := rfl

theorem ofByte_beq (a b : Byte) : (ofByte a == ofByte b) = decide (a = b) :=
  decide_eq_decide.mpr ⟨ofByte_inj, congrArg ofByte⟩

theorem incFlags_word_v (d : Word) (cc : CC) : (incFlags .word d cc).v = decide (d + 1 = BitVec.intMin 16) := by
  simp only [incFlags, incResult_word]
  rfl

theorem decFlags_word_v (d : Word) (cc : CC) : (decFlags .word d cc).v = decide (d - 1 = BitVec.intMax 16) := by
  simp only [decFlags, decResult_word]
  rfl

theorem incFlags_byte_v (d : Byte) (cc : CC) :
    (incFlags .byte (ofByte d) cc).v = decide (d + 1 = BitVec.intMin 8) := by
  simp only [incFlags, incResult_byte, minOf_byte, ofByte_beq]

theorem decFlags_byte_v (d : Byte) (cc : CC) :
    (decFlags .byte (ofByte d) cc).v = decide (d - 1 = BitVec.intMax 8) := by
  simp only [decFlags, decResult_byte, maxOf_byte, ofByte_beq]

/-! ## The obligation -/

/-- Settles O28: ADD, SUB, CMP and CMPB by signed overflow at the operand's width, INC and DEC by the one value whose
successor or predecessor does not fit. -/
theorem flagsAgreeWithExactArithmetic : Obligations.FlagsAgreeWithExactArithmetic := by
  refine ⟨fun v d cc => ⟨BitVec.toNat_add v d, rfl, ?_⟩, fun v d cc => ⟨?_, rfl, ?_⟩, fun v d cc => ⟨rfl, ?_⟩,
    fun v d cc => ⟨?_, ?_⟩, fun d cc => ⟨?_, ?_⟩, fun d cc => ⟨?_, ?_⟩⟩
  -- ADD
  · exact (addFlags_v v d cc).trans (saddOverflow_eq_decide v d)
  -- SUB
  · rw [diff_word, BitVec.toInt_sub]
  · exact (subFlags_v v d cc).trans (ssubOverflow_eq_decide d v)
  -- CMP
  · exact (cmpFlags_word_v v d cc).trans (ssubOverflow_eq_decide v d)
  -- CMPB
  · simp only [cmpFlags, ofByte_toNat]
  · exact (cmpFlags_byte_v v d cc).trans (ssubOverflow_eq_decide v d)
  -- INC and DEC
  · exact (incFlags_word_v d cc).trans (decide_eq_decide.mpr (add_one_eq_intMin_iff d))
  · exact (decFlags_word_v d cc).trans (decide_eq_decide.mpr (sub_one_eq_intMax_iff d (by decide)))
  -- INCB and DECB
  · exact (incFlags_byte_v d cc).trans (decide_eq_decide.mpr (add_one_eq_intMin_iff d))
  · exact (decFlags_byte_v d cc).trans (decide_eq_decide.mpr (sub_one_eq_intMax_iff d (by decide)))

end Sys2Proof.Machine

/-! PROOFS. What the two writes of the PSW do (10_state.md R28 to R35): `writePSW` switches the bank and the mode, each
on its own condition; `setCC` writes N, Z, V and C and nothing else. -/

namespace Sys2Proof.Machine

/-! ## The fields that WritePSW writes -/

section WritePSW
variable (s : State) (v : Word)

theorem State.writePSW_live :
    (s.writePSW v).live = if bankOf v ≠ bankOf s.psw then s.shadow else s.live := by
  unfold State.writePSW; dsimp only; split <;> split <;> rfl

theorem State.writePSW_shadow :
    (s.writePSW v).shadow = if bankOf v ≠ bankOf s.psw then s.live else s.shadow := by
  unfold State.writePSW; dsimp only; split <;> split <;> rfl

theorem State.writePSW_spslot :
    (s.writePSW v).spslot =
      if modeOf v ≠ modeOf s.psw then s.spslot.set (modeOf s.psw) s.sp else s.spslot := by
  unfold State.writePSW; dsimp only; split <;> split <;> rfl

/-- Saving the old mode's stack pointer does not disturb the slot that is loaded, for the modes differ. -/
theorem State.writePSW_sp :
    (s.writePSW v).sp = if modeOf v ≠ modeOf s.psw then s.spslot.get (modeOf v) else s.sp := by
  by_cases h : modeOf v ≠ modeOf s.psw
  · rw [if_pos h, ← SpSlots.get_set_other s.spslot h s.sp]
    unfold State.writePSW; dsimp only; rw [if_pos h]; split <;> rfl
  · rw [if_neg h]
    unfold State.writePSW; dsimp only; rw [if_neg h]; split <;> rfl

/-- The frame of WritePSW: the two banks, the stack pointers and the PSW are all it writes. -/
theorem State.writePSW_frame :
    { s.writePSW v with live := s.live, shadow := s.shadow, sp := s.sp, spslot := s.spslot, psw := s.psw } = s := by
  simp only [State.writePSW_pc, State.writePSW_trap, State.writePSW_latch, State.writePSW_core, State.writePSW_devices,
    State.writePSW_deviceLog, State.writePSW_params, State.writePSW_thunks]

end WritePSW

/-- Settles O46: a field at a time, each bank by the change of RS and each stack pointer by the change of CM. -/
theorem writePswSwitches : Obligations.WritePswSwitches := by
  intro s v
  have hslots (h : modeOf v ≠ modeOf s.psw) : (s.writePSW v).spslot = s.spslot.set (modeOf s.psw) s.sp :=
    (s.writePSW_spslot v).trans (if_pos h)
  refine ⟨s.writePSW_psw v, fun hbank => ⟨?_, ?_⟩, fun hbank => ⟨?_, ?_⟩, fun hmode => ⟨?_, ?_, fun m hm => ?_⟩,
    fun hmode => ⟨?_, ?_⟩, s.writePSW_frame v⟩
  -- RS changes
  · exact (s.writePSW_live v).trans (if_pos hbank)
  · exact (s.writePSW_shadow v).trans (if_pos hbank)
  -- RS stays
  · exact (s.writePSW_live v).trans (if_neg (not_not_intro hbank))
  · exact (s.writePSW_shadow v).trans (if_neg (not_not_intro hbank))
  -- CM changes
  · rw [hslots hmode]
    exact SpSlots.get_set_same s.spslot _ s.sp
  · exact (s.writePSW_sp v).trans (if_pos hmode)
  · rw [hslots hmode]
    exact SpSlots.get_set_other s.spslot hm s.sp
  -- CM stays
  · exact (s.writePSW_spslot v).trans (if_neg (not_not_intro hmode))
  · exact (s.writePSW_sp v).trans (if_neg (not_not_intro hmode))

/-! ## A write of one condition code -/

/-- Each flag alone, in the packed condition codes (10_state.md R28). -/
theorem CC.toWord_with_one (cc : CC) (b : Bool) :
    { cc with n := b }.toWord = (cc.toWord &&& 0o177767 ||| (if b then 0o10 else 0)) ∧
    { cc with z := b }.toWord = (cc.toWord &&& 0o177773 ||| (if b then 0o4 else 0)) ∧
    { cc with v := b }.toWord = (cc.toWord &&& 0o177775 ||| (if b then 0o2 else 0)) ∧
    { cc with c := b }.toWord = (cc.toWord &&& 0o177776 ||| (if b then 0o1 else 0)) := by
  obtain ⟨n, z, v, c⟩ := cc
  revert n z v c b
  decide

/-- A masked update of the packed condition codes is the same masked update of the whole PSW, when the mask keeps every
bit above them (10_state.md R32). -/
theorem State.setCC_psw_of_masked (s : State) {cc : CC} {keep new : Word} (hkeep : 0o177760 &&& keep = 0o177760)
    (hcc : cc.toWord = s.cc.toWord &&& keep ||| new) : (s.setCC cc).psw = s.psw &&& keep ||| new :=
  calc (s.setCC cc).psw
    _ = s.psw &&& 0o177760 ||| (s.cc.toWord &&& keep ||| new) := by rw [State.setCC_psw, hcc]
    _ = (s.psw &&& 0o177760 ||| s.cc.toWord) &&& keep ||| new := by
      rw [BitVec.and_or_distrib_right, BitVec.and_assoc, hkeep, BitVec.or_assoc]
    _ = s.psw &&& keep ||| new := by rw [State.cc, psw_split]

theorem State.setCC_psw_getLsbD_of_le (s : State) (cc : CC) {k : Nat} (hk : 4 ≤ k) :
    (s.setCC cc).psw.getLsbD k = s.psw.getLsbD k := by
  obtain ⟨j, rfl⟩ := Nat.exists_eq_add_of_le' hk
  exact setCC_getLsbD s cc (j + 4)

/-- Settles O55: the written bits and the kept ones by `setCC_getLsbD`, each single flag as a masked update. -/
theorem flagWritesChangeFlagsOnly : Obligations.FlagWritesChangeFlagsOnly := by
  intro s cc
  refine ⟨setCC_getLsbD s cc 3, setCC_getLsbD s cc 2, setCC_getLsbD s cc 1, setCC_getLsbD s cc 0,
    fun k hk => s.setCC_psw_getLsbD_of_le cc hk, fun b => ?_, rfl⟩
  obtain ⟨hn, hz, hv, hc⟩ := s.cc.toWord_with_one b
  exact ⟨s.setCC_psw_of_masked (by decide) hn, s.setCC_psw_of_masked (by decide) hz,
    s.setCC_psw_of_masked (by decide) hv, s.setCC_psw_of_masked (by decide) hc⟩

end Sys2Proof.Machine

/-! PROOFS. What every step keeps, said once for the whole cycle, and what follows from it: the invariant at reset and
after every step (20_memory.md R43, R53; 10_state.md R29; 60_exceptions.md R197), the device list, and the words that
`TCACHE = ON` remembers (20_memory.md R75). -/

namespace Sys2Proof.Machine

/-! ## What an instruction and a step keep -/

/-- A property that every update of a step keeps: the updates of `Closed`, and the four that only the system
instructions and the cycle itself make. -/
structure StepClosed (Q : Prop) (P : State → Prop) : Prop extends
    Closed (fun _ => True) (fun _ _ => True) (fun _ _ => True) Q P where
  raisePlain : ∀ s k, P s → P (s.raise k none)
  writePSW : ∀ s v, P s → P (s.writePSW v)
  setLatch : ∀ s l, P s → P { s with latch := l }
  noteExecuted : ∀ s a, P s → P (s.noteExecuted a)

/-- The two pops of RTI and RTT, the second through WritePSW (46_system.md R184). -/
theorem returnFromTrap_keeps {Q : Prop} {P : State → Prop} (hP : StepClosed Q P) {s : State} (h : P s) :
    s.returnFromTrap.All Q P := by
  have hread (u : State) : P u → (u.memRead u.sp .word).All Q P := memRead_all hP.toClosed u.sp .word
  have hpc : s.popPc.All Q P := Res.All_bind (hread s h) fun w u _ hu =>
    hP.setX _ .sp _ trivial (hP.setX u .pc w trivial hu)
  exact Res.All_bind hpc fun _ u _ hu => Res.All_bind (hread u hu) fun v u _ hu =>
    hP.writePSW _ v (hP.setX u .sp _ trivial hu)

/-- `exec_all` with no instruction left out. -/
theorem exec_keeps {Q : Prop} {P : State → Prop} (hP : StepClosed Q P) (i : Instr) {s : State} (h : P s) :
    ∃ r : Res Unit, exec i s = r.outcome ∧ r.All Q P := by
  have hillegal (t : State) : P t → P t.raiseIllegal := hP.raisePlain t _
  have hkernel (r : Res Unit) (hr : r.All Q P) :
      ∃ q : Res Unit, (if s.kernel then r.outcome else .next s.raiseIllegal) = q.outcome ∧ q.All Q P := by
    split
    · exact ⟨r, rfl, hr⟩
    · exact ⟨.trapped _, rfl, hillegal s h⟩
  by_cases hhalt : i = .halt
  · subst hhalt; exact hkernel (.trapped _) (hP.raisePlain s .halt h)
  by_cases hwait : i = .wait
  · subst hwait; exact ⟨.trapped _, rfl, hP.raisePlain s .wait h⟩
  by_cases hrti : i = .rti
  · subst hrti; exact hkernel _ (returnFromTrap_keeps hP h)
  by_cases hrtt : i = .rtt
  · subst hrtt; exact hkernel _ (returnFromTrap_keeps hP h)
  exact exec_all hP.toClosed (fun t _ => hillegal t) hhalt hwait hrti hrtt h

theorem execWord_keeps {Q : Prop} {P : State → Prop} (hP : StepClosed Q P) (w : Word) {s : State} (h : P s) :
    ∃ r : Res Unit, execWord w s = r.outcome ∧ r.All Q P := by
  unfold execWord
  split
  · exact exec_keeps hP _ h
  · exact ⟨.trapped _, rfl, hP.raisePlain s _ h⟩

theorem fetchOpcode_keeps {Q : Prop} {P : State → Prop} (hP : StepClosed Q P) {s : State} (h : P s) :
    s.fetchOpcode.All Q P :=
  Res.All_bind (fetch_all hP.toClosed trivial (hP.setLatch s _ h)) fun _ u _ hu => hP.setLatch u _ hu

/-! ## The cases of a step -/

theorem step_of_pending {s : State} {r : TrapRecord} (h : s.trap = some r) : step s = .next s := by
  simp only [step, cycle, h]

theorem step_of_fetchOpcode_ok {s u : State} {w : Word} (h : s.trap = none) (hf : s.fetchOpcode = .ok w u) :
    step s = execFetched w u := by
  simp only [step, cycle, h, hf]

theorem step_of_fetchOpcode_trapped {s t : State} (h : s.trap = none) (hf : s.fetchOpcode = .trapped t) :
    step s = .next t := by
  simp only [step, cycle, h, hf]

theorem step_of_fetchOpcode_stuck {s : State} {f : Fault} (h : s.trap = none) (hf : s.fetchOpcode = .stuck f) :
    step s = .fault f := by
  simp only [step, cycle, h, hf]

theorem execFetched_of_stale {w : Word} {u : State} (h : u.stale u.latch.instAddr) :
    execFetched w u = .refused .staleTranslation :=
  if_pos h

theorem execFetched_of_not_stale {w : Word} {u : State} (h : ¬ u.stale u.latch.instAddr) :
    execFetched w u = execWord w (u.noteExecuted u.latch.instAddr) :=
  if_neg h

/-- A fetched word that answers a next state was not stale. -/
theorem execFetched_eq_next {w : Word} {u t : State} (h : execFetched w u = .next t) :
    execWord w (u.noteExecuted u.latch.instAddr) = .next t := by
  by_cases hs : u.stale u.latch.instAddr
  · rw [execFetched_of_stale hs] at h
    cases h
  · rwa [execFetched_of_not_stale hs] at h

theorem execFetched_keeps {Q : Prop} {P : State → Prop} (hP : StepClosed Q P) {w : Word} {u t : State} (h : P u)
    (ht : execFetched w u = .next t) : P t := by
  obtain ⟨r, he, hr⟩ := execWord_keeps hP w (hP.noteExecuted u u.latch.instAddr h)
  exact Res.All_outcome hr (he ▸ execFetched_eq_next ht)

/-- A step keeps every property that the updates of a step keep. -/
theorem step_keeps {Q : Prop} {P : State → Prop} (hP : StepClosed Q P) {s t : State} (h : P s)
    (ht : step s = .next t) : P t := by
  cases htrap : s.trap with
  | some r =>
    rw [step_of_pending htrap] at ht
    cases ht
    exact h
  | none =>
    have hall := fetchOpcode_keeps hP h
    cases hf : s.fetchOpcode with
    | ok w u =>
      rw [step_of_fetchOpcode_ok htrap hf] at ht
      exact execFetched_keeps hP (Res.All_of_ok hall hf) ht
    | trapped u =>
      rw [step_of_fetchOpcode_trapped htrap hf] at ht
      cases ht
      exact Res.All_of_trapped hall hf
    | stuck f =>
      rw [step_of_fetchOpcode_stuck htrap hf] at ht
      cases ht

/-! ## The bookkeeping of TCACHE -/

section Thunks
variable (s : State)

theorem State.noteStore_of_off (a : Word) (h : s.params.tcache = false) : s.noteStore a = s :=
  if_neg fun hon => by simp [h] at hon

theorem State.not_stale_of_off (a : Word) (h : s.params.tcache = false) : ¬ s.stale a :=
  fun ⟨hon, _⟩ => by simp [h] at hon

@[simp] theorem State.noteStore_bound (a : Word) : (s.noteStore a).thunks.bound = s.thunks.bound := by
  unfold State.noteStore
  split <;> rfl

theorem mem_insertAddr {a b : Word} {l : List Word} : b ∈ insertAddr a l ↔ b = a ∨ b ∈ l := by
  unfold insertAddr
  split
  · exact ⟨.inr, fun h => h.elim (fun e => e ▸ ‹a ∈ l›) id⟩
  · exact List.mem_cons

theorem State.mem_noteStore_overwritten {s : State} {a : Word} (hon : s.params.tcache = true)
    (ha : wordAddr a ∈ s.thunks.bound) : wordAddr a ∈ (s.noteStore a).thunks.overwritten := by
  rw [State.noteStore, if_pos ⟨hon, ha⟩]
  exact mem_insertAddr.mpr (.inl rfl)

theorem State.mem_noteExecuted_bound {s : State} (a : Word) (hon : s.params.tcache = true) :
    a ∈ (s.noteExecuted a).thunks.bound := by
  rw [State.noteExecuted, if_pos hon]
  exact mem_insertAddr.mpr (.inl rfl)

/-- An executed word is not forgotten when another is noted. -/
theorem State.noteExecuted_keeps_bound {s : State} {b : Word} (a : Word) (h : b ∈ s.thunks.bound) :
    b ∈ (s.noteExecuted a).thunks.bound := by
  unfold State.noteExecuted
  split
  · exact mem_insertAddr.mpr (.inr h)
  · exact h

end Thunks

/-! ## The invariant -/

/-- PSW bits 10:8 are above the condition codes, so a write of those leaves them (10_state.md R29, R32). -/
theorem State.setCC_reserved (s : State) (cc : CC) : (s.setCC cc).psw &&& 0o003400 = s.psw &&& 0o003400 :=
  have hmask (p : Word) : p &&& 0o003400 = p &&& 0o177760 &&& 0o003400 := by rw [BitVec.and_assoc]; rfl
  by rw [hmask, setCC_high, ← hmask]

theorem and_pswMask_reserved (v : Word) : v &&& pswMask &&& 0o003400 = 0 := by
  rw [BitVec.and_assoc]
  exact BitVec.and_zero

/-- Both bytes of an aligned access to core memory lie below `IO_BASE`, which is even (20_memory.md R43, R48). -/
theorem State.succ_lt_ioBase {s : State} {a : Word} (hv : s.params.valid) (ha : a.getLsbD 0 = false)
    (hc : s.inCore a) : a.toNat + 1 < s.params.ioBase := by
  obtain ⟨heven, -, -⟩ := hv
  have : a.toNat % 2 = 0 := by simpa [BitVec.getLsbD, Nat.testBit_zero] using ha
  have : a.toNat < s.params.ioBase := hc
  omega

theorem covers_iff {b : Binding} {a : Nat} : covers b a = true ↔ b.base ≤ a ∧ a < b.base + b.length := by
  simp [covers]

/-- What the lookup finds is registered and covers the address (20_memory.md R53). -/
theorem State.mem_and_covers_of_deviceLookup {s : State} {a : Word} {b : Binding} (h : s.deviceLookup a = some b) :
    b ∈ s.devices ∧ b.base ≤ a.toNat ∧ a.toNat < b.base + b.length :=
  ⟨List.mem_of_find?_eq_some h, covers_iff.mp (List.find?_some (p := fun b => covers b a.toNat) h)⟩

/-- A call for an address of the I/O space goes to the binding that the lookup found for it. -/
theorem State.callFromBinding_callOf {s : State} {a : Word} {b : Binding} (op : DeviceOp) (sz : Size)
    (hc : ¬ s.inCore a) (hb : s.deviceLookup a = some b) : s.callFromBinding (callOf b op a sz) := by
  obtain ⟨hmem, hle, hlt⟩ := State.mem_and_covers_of_deviceLookup hb
  have : s.params.ioBase ≤ a.toNat := Nat.le_of_not_lt hc
  refine ⟨b, hmem, rfl, rfl, ?_, ?_⟩ <;> simp only [callOf] <;> omega

namespace State.Inv
variable {s : State}

theorem setX (h : s.Inv) (r : Reg) (v : Word) : (s.setX r v).Inv := by
  cases r <;> exact h

theorem setCC (h : s.Inv) (cc : CC) : (s.setCC cc).Inv := by
  obtain ⟨hwf, hbelow, hpsw, hrest⟩ := h
  exact ⟨hwf, hbelow, (s.setCC_reserved cc).trans hpsw, hrest⟩

theorem writePSW (h : s.Inv) (v : Word) : (s.writePSW v).Inv := by
  obtain ⟨hwf, hbelow, -, hrest⟩ := h
  simp only [State.Inv, State.callFromBinding, State.writePSW_core, State.writePSW_params, State.writePSW_trap,
    State.writePSW_thunks, State.writePSW_deviceLog, State.writePSW_devices, State.writePSW_psw]
  exact ⟨hwf, hbelow, and_pswMask_reserved v, hrest⟩

/-- A record as `raise` writes it is well formed, if a pseudo-trap is raised with no fault address. -/
theorem raise (h : s.Inv) {k : TrapKind} {a : Option Word} (ha : k = .halt ∨ k = .wait → a = none) :
    (s.raise k a).Inv := by
  obtain ⟨hwf, hbelow, hpsw, hparams, -, hrest⟩ := h
  refine ⟨hwf, hbelow, hpsw, hparams, fun t ht => ?_, hrest⟩
  cases ht
  exact ⟨rfl, ha⟩

theorem raiseFault (h : s.Inv) (k : FaultKind) (a : Option Word) : (s.raise (.fault k) a).Inv :=
  h.raise fun hk => by simp at hk

theorem logCall (h : s.Inv) {c : DeviceCall} (hc : s.callFromBinding c) : (s.logCall c).Inv := by
  obtain ⟨hwf, hbelow, hpsw, hparams, htrap, hthunks, hlog⟩ := h
  refine ⟨hwf, hbelow, hpsw, hparams, htrap, hthunks, fun d hd => ?_⟩
  rcases List.mem_append.mp hd with hd | hd
  · exact hlog d hd
  · exact List.mem_singleton.mp hd ▸ hc

/-- The second byte of a word store lies below `IO_BASE` too: the address and `IO_BASE` are even. -/
theorem coreWrite (h : s.Inv) {a : Word} {sz : Size} (v : Word) (hm : ¬ misaligned a sz) (hc : s.inCore a) :
    (s.coreWrite a sz v).Inv := by
  obtain ⟨hwf, hbelow, hpsw, hparams, hrest⟩ := h
  have hwf' := Memory.write_wf hwf a.toNat (lowByte v)
  have hbelow' := Memory.write_below hbelow hc (lowByte v)
  cases sz with
  | byte => exact ⟨hwf', hbelow', hpsw, hparams, hrest⟩
  | word =>
    have ha : a.getLsbD 0 = false := by simpa [misaligned] using hm
    exact ⟨Memory.write_wf hwf' _ _, Memory.write_below hbelow' (State.succ_lt_ioBase hparams ha hc) _, hpsw, hparams,
      hrest⟩

/-- The invariant says of the bookkeeping only that it is empty with `TCACHE = OFF`. -/
theorem setThunks (h : s.Inv) {k : Thunks} (hk : s.params.tcache = true) : { s with thunks := k }.Inv := by
  obtain ⟨hwf, hbelow, hpsw, hparams, htrap, -, hlog⟩ := h
  exact ⟨hwf, hbelow, hpsw, hparams, htrap, fun hoff => by simp [hk] at hoff, hlog⟩

theorem noteStore (h : s.Inv) (a : Word) : (s.noteStore a).Inv := by
  unfold State.noteStore
  split
  · rename_i hon
    exact h.setThunks hon.1
  · exact h

theorem noteExecuted (h : s.Inv) (a : Word) : (s.noteExecuted a).Inv := by
  unfold State.noteExecuted
  split
  · rename_i hon
    exact h.setThunks hon
  · exact h

end State.Inv

theorem inv_stepClosed : StepClosed True State.Inv where
  setX _ r v _ h := h.setX r v
  setCC _ cc _ h := h.setCC cc
  raiseOdd _ _ _ h := h.raiseFault _ _
  raiseNone _ _ _ _ h := h.raiseFault _ _
  raiseDevice _ k _ _ _ _ h := h.raiseFault k _
  logCall _ _ op _ sz hc hb h := h.logCall (State.callFromBinding_callOf op sz hc hb)
  coreWrite _ _ _ v _ hm hc h := h.coreWrite v hm hc
  noteStore _ a h := h.noteStore a
  stuck _ _ _ _ _ _ := trivial
  raisePlain _ _ h := h.raise fun _ => rfl
  writePSW _ v h := h.writePSW v
  setLatch _ _ h := h
  noteExecuted _ a h := h.noteExecuted a

/-- Settles O12: each update that a step makes keeps the invariant. -/
theorem stepKeepsInvariant : Obligations.StepKeepsInvariant :=
  fun _ _ hs ht => step_keeps inv_stepClosed hs ht

theorem State.create_inv {p : Params} (l : List Binding) (g : ResetRegs) (hp : p.valid) : (State.create p l g).Inv :=
  ⟨⟨.nil, List.forall_mem_nil _⟩, List.forall_mem_nil _, and_pswMask_reserved g.psw, hp, by rintro _ ⟨⟩,
    fun _ => rfl, List.forall_mem_nil _⟩

/-- Settles O11: a new machine has empty memory, no trap and no calls, and `RESET_REGS` goes through the PSW mask. -/
theorem resetMeetsInvariant : Obligations.ResetMeetsInvariant :=
  ⟨State.create_inv [] ResetRegs.zero (by decide), fun _ l g hp => State.create_inv l g hp⟩

/-! ## Refusals, and the words that TCACHE = ON remembers -/

theorem bound_stepClosed (a : Word) : StepClosed True fun t => a ∈ t.thunks.bound where
  setX _ _ _ _ h := by simpa using h
  setCC _ _ _ h := h
  raiseOdd _ _ _ h := h
  raiseNone _ _ _ _ h := h
  raiseDevice _ _ _ _ _ _ h := h
  logCall _ _ _ _ _ _ _ h := h
  coreWrite _ _ _ _ _ _ _ h := by simpa using h
  noteStore _ _ h := by simpa using h
  stuck _ _ _ _ _ _ := trivial
  raisePlain _ _ h := h
  writePSW _ _ h := by simpa using h
  setLatch _ _ h := h
  noteExecuted _ b h := State.noteExecuted_keeps_bound b h

theorem devices_stepClosed (l : List Binding) : StepClosed True fun t => t.devices = l where
  setX _ _ _ _ h := by simpa using h
  setCC _ _ _ h := h
  raiseOdd _ _ _ h := h
  raiseNone _ _ _ _ h := h
  raiseDevice _ _ _ _ _ _ h := h
  logCall _ _ _ _ _ _ _ h := h
  coreWrite _ _ _ _ _ _ _ h := by simpa using h
  noteStore _ _ h := by simpa using h
  stuck _ _ _ _ _ _ := trivial
  raisePlain _ _ h := h
  writePSW _ _ h := by simpa using h
  setLatch _ _ h := h
  noteExecuted _ _ h := by simpa using h

theorem step_devices {s t : State} (h : step s = .next t) : t.devices = s.devices :=
  step_keeps (devices_stepClosed s.devices) rfl h

/-- No instruction and no UNKNOWN word is refused. -/
theorem execWord_ne_refused (w : Word) (s : State) (r : Refusal) : execWord w s ≠ .refused r := by
  obtain ⟨q, he, -⟩ := execWord_keeps (devices_stepClosed s.devices) w rfl
  rw [he]
  cases q <;> exact nofun

/-- The word a step executes is remembered with `TCACHE = ON`, and the rest of the step does not forget it. -/
theorem execFetched_mem_bound {w : Word} {u t : State} (ht : execFetched w u = .next t)
    (hon : u.params.tcache = true) : u.latch.instAddr ∈ t.thunks.bound := by
  obtain ⟨r, he, hr⟩ := execWord_keeps (bound_stepClosed u.latch.instAddr) w
    (State.mem_noteExecuted_bound u.latch.instAddr hon)
  exact Res.All_outcome hr (he ▸ execFetched_eq_next ht)

theorem execFetched_ne_refused (w : Word) {u : State} (r : Refusal) (hoff : u.params.tcache = false) :
    execFetched w u ≠ .refused r := by
  rw [execFetched_of_not_stale (u.not_stale_of_off _ hoff)]
  exact execWord_ne_refused w _ r

theorem step_ne_refused {s : State} (r : Refusal) (hoff : s.params.tcache = false) : step s ≠ .refused r := by
  cases htrap : s.trap with
  | some q => rw [step_of_pending htrap]; exact nofun
  | none =>
    cases hf : s.fetchOpcode with
    | ok w u =>
      obtain ⟨l, rfl⟩ := fetchOpcode_ok hf
      rw [step_of_fetchOpcode_ok htrap hf]
      exact execFetched_ne_refused w r hoff
    | trapped u => rw [step_of_fetchOpcode_trapped htrap hf]; exact nofun
    | stuck f => rw [step_of_fetchOpcode_stuck htrap hf]; exact nofun

/-- Settles O9: the opcode fetch latches the word's address and leaves the bookkeeping; a stale word ends there, and
any other is noted before its instruction runs. -/
theorem translatedWordsRefusedWhenStale : Obligations.TranslatedWordsRefusedWhenStale := by
  refine ⟨fun s u w htrap hon hf hstale => ?_, fun s u t w htrap hon hf ht => ?_, fun s t a v sz hon hw hbound => ?_,
    fun s r hoff => step_ne_refused r hoff⟩
  · obtain ⟨l, rfl⟩ := fetchOpcode_ok hf
    rw [step_of_fetchOpcode_ok htrap hf]
    exact execFetched_of_stale ⟨hon, hstale⟩
  · obtain ⟨l, rfl⟩ := fetchOpcode_ok hf
    rw [step_of_fetchOpcode_ok htrap hf] at ht
    exact execFetched_mem_bound ht hon
  · obtain ⟨-, ⟨-, rfl⟩ | ⟨-, b, -, rfl⟩⟩ := memWrite_ok hw
    · exact State.mem_noteStore_overwritten (by simpa using hon) (by simpa using hbound)
    · exact State.mem_noteStore_overwritten hon hbound

end Sys2Proof.Machine

/-! PROOFS. The access controller and the operand resolver (20_memory.md R44 to R70): each branch of MemRead and
MemWrite once, the bytes of a word in core memory, and what the addressing modes and the locators make of them. -/

namespace Sys2Proof.Machine

/-! ## Words and their bytes -/

theorem lowByte_eq_extractLsb' (v : Word) : lowByte v = v.extractLsb' 0 8 := BitVec.setWidth_eq_extractLsb' (by decide)

theorem ofByte_eq_append (b : Byte) : ofByte b = (0 : Byte) ++ b := BitVec.setWidth_eq_append (by decide)

@[simp] theorem lowByte_wordOfBytes (lo hi : Byte) : lowByte (wordOfBytes lo hi) = lo :=
  BitVec.setWidth_append_eq_right

@[simp] theorem highByte_wordOfBytes (lo hi : Byte) : highByte (wordOfBytes lo hi) = hi :=
  BitVec.extractLsb'_append_eq_left

@[simp] theorem wordOfBytes_lowByte_highByte (v : Word) : wordOfBytes (lowByte v) (highByte v) = v := by
  rw [lowByte_eq_extractLsb']
  exact BitVec.extractLsb'_append_extractLsb'

theorem valueOfBuffer_eq_ite (lo hi : Byte) (sz : Size) :
    valueOfBuffer lo hi sz = if sz = .byte then (0 : Byte) ++ lo else hi ++ lo := by
  cases sz with
  | byte => exact ofByte_eq_append lo
  | word => rfl

theorem bufferOf_eq_ite (v : Word) (sz : Size) :
    bufferOf v sz = if sz = .byte then [v.extractLsb' 0 8] else [v.extractLsb' 0 8, v.extractLsb' 8 8] := by
  rw [← lowByte_eq_extractLsb']
  cases sz <;> rfl

/-- A byte write of a register is the old high byte beside the new low byte (20_memory.md R70). -/
theorem mergeReg_byte (old v : Word) : mergeReg old v .byte = old.extractLsb' 8 8 ++ v.extractLsb' 0 8 := by
  have hmask : ∀ i : Fin 16, (0o177400 : Word).getLsbD i = decide (8 ≤ i.val) := by decide
  apply BitVec.eq_of_getLsbD_eq
  intro i hi
  rw [mergeReg, ofByte_eq_append, lowByte_eq_extractLsb', BitVec.getLsbD_or, BitVec.getLsbD_and, hmask ⟨i, hi⟩,
    BitVec.getLsbD_append, BitVec.getLsbD_append]
  by_cases h : i < 8
  · simp [h]
  · simp [h, hi, Nat.le_of_not_lt h, show i - 8 < 8 by omega, show 8 + (i - 8) = i by omega]

/-! ## The branches of an access -/

section Access
variable {s : State} {a : Word} {sz : Size}

theorem not_misaligned_byte (a : Word) : ¬ misaligned a .byte := nofun

theorem not_misaligned_of_even (h : sz = .word → a.getLsbD 0 = false) : ¬ misaligned a sz :=
  fun ⟨hsz, hodd⟩ => Bool.false_ne_true ((h hsz).symm.trans hodd)

theorem memRead_misaligned (h : misaligned a sz) :
    s.memRead a sz = .trapped (s.raise (.fault .oddAddress) (some a)) :=
  if_pos h

theorem memRead_unbound (hm : ¬ misaligned a sz) (hc : ¬ s.inCore a) (hb : s.deviceLookup a = none) :
    s.memRead a sz = .trapped (s.raise (.fault .nonexistentAddress) (some a)) := by
  rw [State.memRead, if_neg hm, if_neg hc, hb]

theorem memRead_device {b : Binding} (hm : ¬ misaligned a sz) (hc : ¬ s.inCore a) (hb : s.deviceLookup a = some b) :
    s.memRead a sz = s.deviceLoad b a sz := by
  rw [State.memRead, if_neg hm, if_neg hc, hb]

theorem memWrite_misaligned (v : Word) (h : misaligned a sz) :
    s.memWrite a sz v = .trapped (s.raise (.fault .oddAddress) (some a)) :=
  if_pos h

theorem memWrite_unbound (v : Word) (hm : ¬ misaligned a sz) (hc : ¬ s.inCore a) (hb : s.deviceLookup a = none) :
    s.memWrite a sz v = .trapped (s.raise (.fault .nonexistentAddress) (some a)) := by
  rw [State.memWrite, if_neg hm, if_neg hc, hb]

theorem memWrite_device {b : Binding} (v : Word) (hm : ¬ misaligned a sz) (hc : ¬ s.inCore a)
    (hb : s.deviceLookup a = some b) : s.memWrite a sz v = s.deviceStore b a sz v := by
  rw [State.memWrite, if_neg hm, if_neg hc, hb]

theorem not_misaligned_of_memRead_ok {v : Word} {t : State} (h : s.memRead a sz = .ok v t) : ¬ misaligned a sz :=
  fun hm => by
    rw [memRead_misaligned hm] at h
    cases h

/-- A completed store to an address of core memory. -/
theorem memWrite_ok_of_inCore {t : State} {v : Word} (hc : s.inCore a) (h : s.memWrite a sz v = .ok () t) :
    ¬ misaligned a sz ∧ t = (s.coreWrite a sz v).noteStore a := by
  obtain ⟨hm, ⟨-, ht⟩ | ⟨hn, -⟩⟩ := memWrite_ok h
  · exact ⟨hm, ht⟩
  · exact absurd hc hn

/-- Every byte read gives the value of a byte, whoever answers it. -/
theorem memRead_byte_ok {t : State} {v : Word} (h : s.memRead a .byte = .ok v t) : ∃ b : Byte, v = ofByte b := by
  have hm := not_misaligned_byte a
  by_cases hc : s.inCore a
  · rw [memRead_core hm hc] at h
    cases h
    exact ⟨_, rfl⟩
  · cases hb : s.deviceLookup a with
    | none =>
      rw [memRead_unbound hm hc hb] at h
      cases h
    | some b =>
      rw [memRead_device hm hc hb] at h
      simp only [State.deviceLoad] at h
      split at h <;> cases h
      exact ⟨_, rfl⟩

/-- A read changes no register, whether it completes or traps. -/
theorem memRead_ok_x {t : State} {v : Word} (h : s.memRead a sz = .ok v t) (r : Reg) : t.x r = s.x r := by
  obtain ⟨l, rfl⟩ := memRead_ok h
  exact State.x_congr rfl rfl rfl r

theorem memRead_trapped_x {t : State} (h : s.memRead a sz = .trapped t) (r : Reg) : t.x r = s.x r := by
  obtain ⟨l, k, rfl⟩ := memRead_trapped h
  exact State.x_congr rfl rfl rfl r

end Access

/-- Settles O48: the branches of MemRead in their order. -/
theorem memReadFollowsItsSteps : Obligations.MemReadFollowsItsSteps := by
  refine fun s a => ⟨fun hodd => memRead_misaligned ⟨rfl, hodd⟩, fun hc => ?_, fun heven hc => ?_,
    fun sz heven hio => ?_⟩
  · rw [memRead_core (not_misaligned_byte a) hc, ← ofByte_eq_append]
    rfl
  · exact memRead_core (not_misaligned_of_even fun _ => heven) hc
  · have hm := not_misaligned_of_even heven
    have hc : ¬ s.inCore a := Nat.not_lt_of_le hio
    refine ⟨memRead_unbound hm hc, fun b hb => ?_⟩
    rw [memRead_device hm hc hb]
    simp only [State.deviceLoad, valueOfBuffer_eq_ite]
    rfl

/-- Settles O49: the branches of MemWrite in their order. -/
theorem memWriteFollowsItsSteps : Obligations.MemWriteFollowsItsSteps := by
  refine ⟨fun s a v => ⟨fun hodd => memWrite_misaligned v ⟨rfl, hodd⟩, fun hc => ?_, fun heven hc => ?_,
    fun sz heven hio => ?_⟩, fun s a hoff => s.noteStore_of_off a hoff⟩
  · rw [← lowByte_eq_extractLsb']
    exact memWrite_core (not_misaligned_byte a) hc
  · rw [← lowByte_eq_extractLsb']
    exact memWrite_core (not_misaligned_of_even fun _ => heven) hc
  · have hm := not_misaligned_of_even heven
    have hc : ¬ s.inCore a := Nat.not_lt_of_le hio
    refine ⟨memWrite_unbound v hm hc, fun b hb => ?_⟩
    rw [memWrite_device v hm hc hb]
    simp only [State.deviceStore, bufferOf_eq_ite]
    rfl

/-! ## The device lookup -/

theorem State.deviceLookup_eq_some {s : State} {a : Word} {b : Binding} :
    s.deviceLookup a = some b ↔
      ∃ before after, s.devices = before ++ b :: after ∧ covers b a.toNat = true ∧
        ∀ c ∈ before, ¬ covers c a.toNat = true := by
  rw [State.deviceLookup, List.find?_eq_some_iff_append]
  simp only [Bool.not_eq_true', Bool.not_eq_true]
  exact ⟨fun ⟨hb, before, after, hl, hn⟩ => ⟨before, after, hl, hb, hn⟩,
    fun ⟨before, after, hl, hb, hn⟩ => ⟨hb, before, after, hl, hn⟩⟩

/-- Settles O50: the library's first match is R53's, and core memory answers before the list is asked. -/
theorem deviceLookupTakesFirst : Obligations.DeviceLookupTakesFirst := by
  refine ⟨fun s a b => ?_, fun s a => ?_, fun s a sz l hc hm => ⟨s.coreRead a sz, memRead_core hm hc, ?_⟩,
    fun s t h => step_devices h⟩
  · simp only [State.deviceLookup_eq_some, covers_iff, and_assoc]
  · simp only [State.deviceLookup, List.find?_eq_none, covers_iff]
  · have hread : { s with devices := l }.coreRead a sz = s.coreRead a sz := by cases sz <;> rfl
    rw [← hread]
    exact memRead_core hm hc

/-! ## Core memory read back -/

section ReadBack
variable {s : State} (a v : Word) (sz : Size)

theorem State.coreWrite_wf (h : s.core.wf) : (s.coreWrite a sz v).core.wf := by
  cases sz with
  | byte => exact Memory.write_wf h _ _
  | word => exact Memory.write_wf (Memory.write_wf h _ _) _ _

theorem State.coreWrite_read_low (h : s.core.wf) : (s.coreWrite a sz v).core.read a.toNat = lowByte v := by
  cases sz with
  | byte => exact Memory.read_write_same h _ _
  | word => exact (Memory.read_write_other _ _ (by omega)).trans (Memory.read_write_same h _ _)

theorem State.coreWrite_read_high (h : s.core.wf) :
    (s.coreWrite a .word v).core.read (a.toNat + 1) = highByte v :=
  Memory.read_write_same (Memory.write_wf h _ _) _ _

theorem State.coreRead_coreWrite (h : s.core.wf) : (s.coreWrite a sz v).coreRead a sz = regValue v sz := by
  cases sz with
  | byte => rw [State.coreRead, State.coreWrite_read_low a v .byte h]; rfl
  | word =>
    rw [State.coreRead, State.coreWrite_read_low a v .word h, State.coreWrite_read_high a v h]
    exact wordOfBytes_lowByte_highByte v

@[simp] theorem State.noteStore_coreRead (b : Word) : (s.noteStore b).coreRead a sz = s.coreRead a sz := by
  cases sz <;> simp only [State.coreRead, State.noteStore_core]

end ReadBack

/-- Settles O51: a completed store is a `coreWrite`, read back byte by byte; a word read gives the two bytes, of which
the one at the odd address lies in core memory too. -/
theorem storedBytesReadBack : Obligations.StoredBytesReadBack := by
  refine ⟨fun s t a v sz hwf hc hw => ?_, fun s t a v hwf hc hw => ?_, fun s a w hv hc hr => ?_⟩
  · obtain ⟨hm, rfl⟩ := memWrite_ok_of_inCore hc hw
    refine ⟨?_, fun x hx => ?_, ?_⟩
    · rw [memRead_core hm (by simpa [State.inCore] using hc), State.noteStore_coreRead,
        State.coreRead_coreWrite a v sz hwf]
    · rw [State.noteStore_core]
      exact coreWrite_read_other s a sz v x (hx a rfl)
    · rw [State.noteStore_core]
      exact State.coreWrite_wf a v sz hwf
  · obtain ⟨-, rfl⟩ := memWrite_ok_of_inCore hc hw
    rw [State.noteStore_core]
    exact ⟨State.coreWrite_read_low a v .word hwf, State.coreWrite_read_high a v hwf⟩
  · have hm := not_misaligned_of_memRead_ok hr
    rw [memRead_core hm hc] at hr
    cases hr
    have hlt : a.toNat + 1 < s.params.ioBase := State.succ_lt_ioBase hv (by simpa [misaligned] using hm) hc
    have hsucc : (a + 1).toNat = a.toNat + 1 := BitVec.toNat_add_of_lt (Nat.lt_of_lt_of_le hlt hv.2.2)
    rw [memRead_core (not_misaligned_byte a) hc,
      memRead_core (not_misaligned_byte (a + 1)) (show (a + 1).toNat < _ from hsucc ▸ hlt)]
    simp only [State.coreRead, hsucc, lowByte_wordOfBytes, highByte_wordOfBytes, and_self]

/-! ## Fetch -/

theorem fetch_of_memRead_ok {s t : State} {w : Word} (h : s.memRead s.pc .word = .ok w t) :
    s.fetch = .ok w (t.setX .pc (s.pc + 2)) := by
  have hpc : t.pc = s.pc := memRead_ok_x h .pc
  rw [State.fetch, h, Res.bind_ok, hpc]
  rfl

theorem fetch_of_memRead_trapped {s t : State} (h : s.memRead s.pc .word = .trapped t) : s.fetch = .trapped t := by
  rw [State.fetch, h, Res.bind_trapped]

theorem fetchOpcode_of_odd {s : State} (h : s.pc.getLsbD 0 = true) :
    s.fetchOpcode =
      .trapped ({ s with latch := { instAddr := s.pc, opcode := none } }.raise (.fault .oddAddress) (some s.pc)) := by
  rw [State.fetchOpcode, fetch_of_memRead_trapped (memRead_misaligned ⟨rfl, by exact h⟩)]
  rfl

/-- Settles O7: Fetch is a MemRead at `pc`, and the opcode fetch is a Fetch with the latch set. -/
theorem fetchAdvancesPc : Obligations.FetchAdvancesPc :=
  ⟨fun _ _ _ hr => fetch_of_memRead_ok hr,
    fun _ _ hr => ⟨fetch_of_memRead_trapped hr, memRead_trapped_x hr .pc⟩,
    fun _ _ htrap hf => step_of_fetchOpcode_trapped htrap hf,
    fun _ htrap hodd => step_of_fetchOpcode_trapped htrap (fetchOpcode_of_odd hodd)⟩

/-! ## Addressing modes and locators -/

theorem stepOf_eq_ite (r : Reg) (sz : Size) :
    stepOf r sz = if r = .sp ∨ r = .pc then 2 else if sz = .byte then 1 else 2 := by
  cases sz <;> rfl

/-- Settles O52: `resolve` mode by mode, with the outcome of the fetch or pointer read that the mode makes. -/
theorem addressingModes : Obligations.AddressingModes := by
  intro r sz s
  rw [← stepOf_eq_ite]
  refine ⟨rfl, rfl, rfl, fun a t hr => ?_, fun t hr => ⟨?_, memRead_trapped_x hr r⟩, ?_, fun a t hr => ?_,
    fun t hr => ⟨?_, ?_⟩, fun d t hf => ⟨?_, fun a u hr => ?_, fun u hr => ?_⟩, fun t hf => ⟨?_, ?_⟩⟩
  -- mode 3
  · simp only [resolve, hr, Res.bind_ok, memRead_ok_x hr r]
  · simp only [resolve, hr, Res.bind_trapped]
  -- mode 4
  · simp only [resolve, State.setX_x_same]
  -- mode 5
  · simp only [resolve, State.setX_x_same, hr, Res.bind_ok]
  · simp only [resolve, State.setX_x_same, hr, Res.bind_trapped]
  · rw [memRead_trapped_x hr r, State.setX_x_same]
  -- modes 6 and 7
  · simp only [resolve, hf, Res.bind_ok]
  · simp only [resolve, hf, hr, Res.bind_ok]
  · simp only [resolve, hf, hr, Res.bind_ok, Res.bind_trapped]
  · simp only [resolve, hf, Res.bind_trapped]
  · simp only [resolve, hf, Res.bind_trapped]

/-- Settles O54: registers by `regValue` and `mergeReg`, memory by the access itself. -/
theorem readAndWriteThroughLocators : Obligations.ReadAndWriteThroughLocators := by
  refine ⟨fun r v s => ⟨rfl, ?_, rfl, ?_⟩, fun a v sz s => ⟨rfl, rfl⟩, fun loc s t v h => ?_⟩
  · rw [← lowByte_eq_extractLsb', ← ofByte_eq_append]
    rfl
  · rw [← mergeReg_byte]
    rfl
  · cases loc with
    | reg r =>
      cases h
      exact ⟨_, rfl⟩
    | mem a => exact memRead_byte_ok h

end Sys2Proof.Machine

/-! PROOFS. The decoder and the encoder (30_encoding.md R77 to R97). `firstMatch` is what the six layers of R92 come to.
A word it matches is the encoding of what it gives, for a layer fixes the bits above an instruction's field and reads
the field from the rest; an encoded word falls to the layer of its format, for the layers before it stop at other
ranges of words. -/

namespace Sys2Proof

/-! ## Operand specifiers -/

@[simp] theorem Mode.ofBits_bits (m : Mode) : Mode.ofBits m.bits = m := by cases m <;> rfl

@[simp] theorem Reg.ofBits_bits (r : Reg) : Reg.ofBits r.bits = r := by cases r <;> rfl

theorem Mode.bits_ofBits {n : Nat} (h : n < 8) : (Mode.ofBits n).bits = n := by
  interval_cases n <;> rfl

theorem Reg.bits_ofBits {n : Nat} (h : n < 8) : (Reg.ofBits n).bits = n := by
  interval_cases n <;> rfl

/-- A specifier is read from its low six bits. -/
theorem Operand.ofBits_eq {n : Nat} {o : Operand} (h : n % 64 = o.bits) : Operand.ofBits n = o := by
  obtain ⟨m, r⟩ := o
  have := m.bits_lt
  have := r.bits_lt
  simp only [Operand.bits] at h
  rw [Operand.ofBits, show n / 8 % 8 = m.bits by omega, show n % 8 = r.bits by omega, Mode.ofBits_bits, Reg.ofBits_bits]

theorem Operand.ofBits_mod (n : Nat) : Operand.ofBits (n % 64) = Operand.ofBits n := by
  rw [Operand.ofBits, Operand.ofBits, show n % 64 / 8 % 8 = n / 8 % 8 by omega, show n % 64 % 8 = n % 8 by omega]

theorem Operand.ofBits_bits (d : Operand) : Operand.ofBits d.bits = d :=
  Operand.ofBits_eq (Nat.mod_eq_of_lt d.bits_lt)

theorem Operand.ofBits_mul_add_bits (x : Nat) (d : Operand) : Operand.ofBits (x * 64 + d.bits) = d :=
  Operand.ofBits_eq ((Nat.mul_add_mod_self_right ..).trans (Nat.mod_eq_of_lt d.bits_lt))

theorem Operand.bits_ofBits (n : Nat) : (Operand.ofBits n).bits = n % 64 := by
  rw [Operand.bits, Operand.ofBits, Mode.bits_ofBits (Nat.mod_lt _ (by decide)),
    Reg.bits_ofBits (Nat.mod_lt _ (by decide))]
  omega

theorem mul_add_div_of_lt (x : Nat) {m b : Nat} (h : b < m) : (x * m + b) / m = x := by
  rw [Nat.mul_comm, Nat.mul_add_div (by omega), Nat.div_eq_of_lt h, Nat.add_zero]

/-! ## Fields of a word -/

theorem toNat_extractLsb'_eq_field (w : Word) {hi lo len : Nat} (h : lo + len = hi + 1) :
    (w.extractLsb' lo len).toNat = field w hi lo := by
  rw [BitVec.extractLsb'_toNat, Nat.shiftRight_eq_div_pow, field, ← h, Nat.add_sub_cancel_left]

/-- Nothing is above bit 15. -/
theorem field_15 (w : Word) {lo : Nat} (h : lo ≤ 16) : field w 15 lo = w.toNat / 2 ^ lo := by
  refine Nat.mod_eq_of_lt (Nat.div_lt_of_lt_mul ?_)
  rw [← Nat.pow_add, Nat.add_sub_cancel' h]
  exact w.isLt

/-- SS is a mode in bits 11:9 and a register in bits 8:6 (R78). -/
theorem ssField_eq (w : Word) : ssField w = ⟨Mode.ofBits (field w 11 9), Reg.ofBits (field w 8 6)⟩ := by
  have hmode : field w 11 6 / 8 % 8 = field w 11 9 := by simp only [field]; omega
  have hreg : field w 11 6 % 8 = field w 8 6 := by simp only [field]; omega
  rw [ssField, Operand.ofBits, hmode, hreg]

/-- DD is a mode in bits 5:3 and a register in bits 2:0 (R78). -/
theorem ddField_eq (w : Word) : ddField w = ⟨Mode.ofBits (field w 5 3), Reg.ofBits (field w 2 0)⟩ := by
  have hmode : field w 5 0 / 8 % 8 = field w 5 3 := by simp only [field]; omega
  have hreg : field w 5 0 % 8 = field w 2 0 := by simp only [field]; omega
  rw [ddField, Operand.ofBits, hmode, hreg]

theorem bits_ddField (w : Word) : (ddField w).bits = w.toNat % 2 ^ 6 := by
  rw [ddField, Operand.bits_ofBits, field]
  omega

theorem bits_rField (w : Word) : (rField w).bits = w.toNat / 2 ^ 6 % 2 ^ 3 :=
  Reg.bits_ofBits (Nat.mod_lt _ (by decide))

theorem bits_ssField (w : Word) : (ssField w).bits = w.toNat / 2 ^ 6 % 2 ^ 6 := by
  rw [ssField, Operand.bits_ofBits, field]
  omega

theorem toNat_ofNat_field (w : Word) (hi : Nat) :
    (BitVec.ofNat (hi + 1) (field w hi 0)).toNat = w.toNat % 2 ^ (hi + 1) := by
  rw [BitVec.toNat_ofNat, field, Nat.pow_zero, Nat.div_one, Nat.sub_zero, Nat.mod_mod]

theorem toNat_getLsbD (w : Word) (k : Nat) : (w.getLsbD k).toNat = w.toNat / 2 ^ k % 2 :=
  Nat.toNat_testBit w.toNat k

/-! ## The fields of an encoded word -/

open Laws.EncodedFields in
/-- No instruction's field reaches a fixed bit: the lemmas per instruction, for all. -/
theorem encodedFields (i : Instr) : Laws.EncodedFields.Statement i :=
  match i with
  | .mov s d => mov s d | .movb s d => movb s d | .cmp s d => cmp s d | .cmpb s d => cmpb s d
  | .bit s d => bit s d | .bitb s d => bitb s d | .bic s d => bic s d | .bicb s d => bicb s d
  | .bis s d => bis s d | .bisb s d => bisb s d | .add s d => add s d | .sub s d => sub s d
  | .clr d => clr d | .clrb d => clrb d | .com d => com d | .comb d => comb d | .inc d => inc d
  | .incb d => incb d | .dec d => dec d | .decb d => decb d | .tst d => tst d | .tstb d => tstb d
  | .neg d => neg d | .negb d => negb d | .adc d => adc d | .adcb d => adcb d | .sbc d => sbc d
  | .sbcb d => sbcb d | .ror d => ror d | .rorb d => rorb d | .rol d => rol d | .rolb d => rolb d
  | .asr d => asr d | .asrb d => asrb d | .asl d => asl d | .aslb d => aslb d | .swab d => swab d
  | .sxt d => sxt d | .mark n => mark n | .mfpi d => mfpi d | .mtpi d => mtpi d | .mtps d => mtps d
  | .mfpd d => mfpd d | .mtpd d => mtpd d | .mfps d => mfps d
  | .br k => br k | .bne k => bne k | .beq k => beq k | .bge k => bge k | .blt k => blt k | .bgt k => bgt k
  | .ble k => ble k | .bpl k => bpl k | .bmi k => bmi k | .bhi k => bhi k | .blos k => blos k
  | .bvc k => bvc k | .bvs k => bvs k | .bcc k => bcc k | .bcs k => bcs k
  | .jsr r d => jsr r d | .rts r => rts r | .jmp d => jmp d | .ash r d => ash r d | .mul r d => mul r d
  | .div r d => div r d | .ashc r d => ashc r d | .xor r d => xor r d | .sob r n => sob r n
  | .ccode s n z v c => ccode s n z v c | .halt => halt | .wait => wait | .rti => rti | .rtt => rtt
  | .bpt => bpt | .iot => iot | .reset => reset | .spl n => spl n | .emt k => emt k | .trap k => trap k

theorem toNat_encode (i : Instr) : (encode i).toNat = i.opcode + i.operandBits := by
  obtain ⟨hbits, -, hfits⟩ := encodedFields i
  exact (BitVec.toNat_ofNat ..).trans (Nat.mod_eq_of_lt (by omega))

/-- A field above an instruction's operand bits holds its opcode's bits. -/
theorem field_encode_fixed {i : Instr} {n lo : Nat} (hspan : i.operandSpan = 2 ^ n) (hn : n ≤ lo) (hlo : lo ≤ 16) :
    field (encode i) 15 lo = i.opcode / 2 ^ lo := by
  obtain ⟨hbits, hfixed, -⟩ := encodedFields i
  rw [hspan] at hbits hfixed
  obtain ⟨k, hk⟩ := Nat.dvd_of_mod_eq_zero hfixed
  rw [field_15 _ hlo, toNat_encode, hk, ← Nat.add_sub_cancel' hn, Nat.pow_add, ← Nat.div_div_eq_div_mul,
    ← Nat.div_div_eq_div_mul, Nat.mul_add_div (Nat.two_pow_pos n), Nat.mul_div_cancel_left k (Nat.two_pow_pos n),
    Nat.div_eq_of_lt hbits, Nat.add_zero]

/-- A field below an instruction's fixed bits holds its operand bits. -/
theorem field_encode_free {i : Instr} {n hi lo : Nat} (hspan : i.operandSpan = 2 ^ n) (hn : hi + 1 ≤ n)
    (hlo : lo ≤ hi + 1) : field (encode i) hi lo = i.operandBits / 2 ^ lo % 2 ^ (hi + 1 - lo) := by
  obtain ⟨-, hfixed, -⟩ := encodedFields i
  rw [hspan] at hfixed
  have hlow : 2 ^ (hi + 1) ∣ i.opcode := (Nat.pow_dvd_pow 2 hn).trans (Nat.dvd_of_mod_eq_zero hfixed)
  rw [← Nat.add_sub_cancel' hlo, Nat.pow_add] at hlow
  obtain ⟨k, hk⟩ := hlow
  rw [field, toNat_encode, hk, Nat.mul_assoc, Nat.mul_add_div (Nat.two_pow_pos lo), Nat.mul_add_mod]

section
variable {i : Instr} {n : Nat}

theorem ddField_encode (hspan : i.operandSpan = 2 ^ n) (hn : 6 ≤ n) :
    ddField (encode i) = Operand.ofBits i.operandBits := by
  rw [ddField, field_encode_free hspan hn (by decide), Nat.pow_zero, Nat.div_one]
  exact Operand.ofBits_mod _

theorem ssField_encode (hspan : i.operandSpan = 2 ^ 12) :
    ssField (encode i) = Operand.ofBits (i.operandBits / 64) := by
  rw [ssField, field_encode_free hspan (by decide) (by decide)]
  exact Operand.ofBits_mod _

theorem rField_encode (hspan : i.operandSpan = 2 ^ 9) :
    rField (encode i) = Reg.ofBits (i.operandBits / 64) := by
  obtain ⟨hbits, -⟩ := encodedFields i
  rw [rField, field_encode_free hspan (by decide) (by decide)]
  exact congrArg Reg.ofBits (Nat.mod_eq_of_lt (by omega))

/-- The low field as a count, an offset, a code or a level: MARK, SOB, BRANCH, CODE and SPL. -/
theorem ofNat_field_encode {k : Nat} (hspan : i.operandSpan = 2 ^ n) (hn : k + 1 ≤ n) :
    BitVec.ofNat (k + 1) (field (encode i) k 0) = BitVec.ofNat (k + 1) i.operandBits := by
  rw [field_encode_free hspan hn (Nat.zero_le _), Nat.pow_zero, Nat.div_one]
  exact BitVec.eq_of_toNat_eq (by simp)

theorem getLsbD_encode {k : Nat} (hspan : i.operandSpan = 2 ^ n) (hk : k < n) :
    (encode i).getLsbD k = i.operandBits.testBit k := by
  obtain ⟨hbits, hfixed, -⟩ := encodedFields i
  rw [hspan] at hbits hfixed
  obtain ⟨m, hm⟩ := Nat.dvd_of_mod_eq_zero hfixed
  rw [BitVec.getLsbD, toNat_encode, hm, Nat.testBit_two_pow_mul_add m hbits, if_pos hk]

end

/-! ## The layers of the decoder -/

/-- The first layer of R92 that matches a word. -/
def firstMatch (w : Word) : Option Instr :=
  (decodeDouble w).or <| (decodeRmr w).or <| (decodeSingle w).or <| (decodeBranch w).or <|
    (decodeShort w).or (decodeZero w)

/-- `decode` answers what the first matching layer gives, and UNKNOWN where none matches. -/
theorem decode_eq_elim (w : Word) : decode w = (firstMatch w).elim (.error (.unknownOpcode w)) .ok := by
  unfold decode firstMatch
  cases decodeDouble w with
  | some i => rfl
  | none =>
  cases decodeRmr w with
  | some i => rfl
  | none =>
  cases decodeSingle w with
  | some i => rfl
  | none =>
  cases decodeBranch w with
  | some i => rfl
  | none =>
  cases decodeShort w with
  | some i => rfl
  | none =>
  cases decodeZero w with
  | some i => rfl
  | none => rfl

theorem decode_eq_ok_iff {w : Word} {i : Instr} : decode w = .ok i ↔ firstMatch w = some i := by
  rw [decode_eq_elim]
  cases firstMatch w <;> simp

theorem decode_eq_error_iff {w : Word} : decode w = .error (.unknownOpcode w) ↔ firstMatch w = none := by
  rw [decode_eq_elim]
  cases firstMatch w <;> simp

theorem decode_of_decodeDouble {w : Word} {i : Instr} (h : decodeDouble w = some i) : decode w = .ok i := by
  rw [decode_eq_ok_iff, firstMatch, h, Option.some_or]

/-! ## The words a layer does not match

In each proof the last case is the word that differs from every row's number; the other cases are the rows. -/

section
variable (w : Word)

theorem decodeDouble_eq_none_iff : decodeDouble w = none ↔
    field w 15 12 = 0 ∨ field w 15 12 = 7 ∨ field w 15 12 = 8 ∨ 15 ≤ field w 15 12 := by
  unfold decodeDouble
  split
  case h_13 =>
    simp only [imp_false] at *
    rw [true_iff]
    omega
  all_goals simp [*]

theorem decodeRmr_eq_none_iff : decodeRmr w = none ↔
    field w 15 9 < 0o004 ∨ 0o004 < field w 15 9 ∧ field w 15 9 < 0o070 ∨
    0o074 < field w 15 9 ∧ field w 15 9 < 0o077 ∨ 0o077 < field w 15 9 := by
  unfold decodeRmr
  split
  case h_8 =>
    simp only [imp_false] at *
    rw [true_iff]
    omega
  all_goals simp [*]

theorem decodeSingle_eq_none_iff : decodeSingle w = none ↔
    field w 15 6 = 0 ∨ field w 15 6 = 2 ∨ 0o0004 ≤ field w 15 6 ∧ field w 15 6 < 0o0050 ∨
    0o0070 ≤ field w 15 6 ∧ field w 15 6 < 0o1050 ∨ 0o1070 ≤ field w 15 6 := by
  unfold decodeSingle
  split
  case h_35 =>
    simp only [imp_false] at *
    rw [true_iff]
    omega
  all_goals simp [*]

theorem decodeBranch_eq_none_iff : decodeBranch w = none ↔
    field w 15 8 = 0 ∨ 0o010 ≤ field w 15 8 ∧ field w 15 8 < 0o200 ∨ 0o212 ≤ field w 15 8 := by
  unfold decodeBranch
  split
  case h_18 =>
    simp only [imp_false] at *
    rw [true_iff]
    omega
  all_goals simp [*]

theorem decodeShort_eq_none_iff : decodeShort w = none ↔
    field w 15 3 ≠ 0o00020 ∧ field w 15 3 ≠ 0o00023 ∧ field w 15 5 ≠ 0o0005 := by
  unfold decodeShort
  split_ifs <;> simp [*]

theorem decodeZero_eq_none_iff : decodeZero w = none ↔ 7 ≤ field w 15 0 := by
  unfold decodeZero
  split
  case h_8 =>
    simp only [imp_false] at *
    rw [true_iff]
    omega
  all_goals simp [*]

end

/-- No layer matches exactly the words of R97. -/
theorem firstMatch_eq_none_iff (w : Word) : firstMatch w = none ↔ Machine.UnknownWord w := by
  have hw := w.isLt
  simp only [firstMatch, Option.or_eq_none_iff, decodeDouble_eq_none_iff, decodeRmr_eq_none_iff,
    decodeSingle_eq_none_iff, decodeBranch_eq_none_iff, decodeShort_eq_none_iff, decodeZero_eq_none_iff,
    Machine.UnknownWord, field_15, Nat.reduceLeDiff]
  omega

/-! ## Encoding a decoded word -/

section
variable {w : Word} {i : Instr}

/-- An encoding is its opcode above bit `lo` and its operand bits below. -/
theorem encode_eq_of_field (lo : Nat) {k : Nat} (hlo : lo ≤ 16) (hfixed : field w 15 lo = k)
    (hop : i.opcode = k * 2 ^ lo) (hbits : i.operandBits = w.toNat % 2 ^ lo) : encode i = w := by
  apply BitVec.eq_of_toNat_eq
  rw [toNat_encode, hop, ← hfixed, field_15 w hlo, hbits, Nat.div_add_mod']

theorem encode_of_decodeDouble (h : decodeDouble w = some i) : encode i = w := by
  have hbits : (ssField w).bits * 64 + (ddField w).bits = w.toNat % 2 ^ 12 := by
    rw [bits_ssField, bits_ddField]
    omega
  unfold decodeDouble at h
  split at h <;> cases h <;> exact encode_eq_of_field 12 (by decide) ‹_› rfl hbits

theorem encode_of_decodeRmr (h : decodeRmr w = some i) : encode i = w := by
  have hbits : (rField w).bits * 64 + (ddField w).bits = w.toNat % 2 ^ 9 := by
    rw [bits_rField, bits_ddField]
    omega
  have hsob : (rField w).bits * 64 + (BitVec.ofNat 6 (field w 5 0)).toNat = w.toNat % 2 ^ 9 := by
    rw [bits_rField, toNat_ofNat_field]
    omega
  unfold decodeRmr at h
  split at h <;> cases h
  case h_7 => exact encode_eq_of_field 9 (by decide) ‹_› rfl hsob
  all_goals exact encode_eq_of_field 9 (by decide) ‹_› rfl hbits

theorem encode_of_decodeSingle (h : decodeSingle w = some i) : encode i = w := by
  unfold decodeSingle at h
  split at h <;> cases h
  case h_15 => exact encode_eq_of_field 6 (by decide) ‹_› rfl (toNat_ofNat_field w 5)
  all_goals exact encode_eq_of_field 6 (by decide) ‹_› rfl (bits_ddField w)

theorem encode_of_decodeBranch (h : decodeBranch w = some i) : encode i = w := by
  unfold decodeBranch at h
  split at h <;> cases h <;> exact encode_eq_of_field 8 (by decide) ‹_› rfl (toNat_ofNat_field w 7)

theorem encode_of_decodeShort (h : decodeShort w = some i) : encode i = w := by
  unfold decodeShort at h
  split_ifs at h <;> cases h
  · refine encode_eq_of_field 3 (by decide) ‹_› rfl ((Reg.bits_ofBits (Nat.mod_lt _ (by decide))).trans ?_)
    exact congrArg (· % 8) (Nat.div_one _)
  · exact encode_eq_of_field 3 (by decide) ‹_› rfl (toNat_ofNat_field w 2)
  · refine encode_eq_of_field 5 (by decide) ‹_› rfl ?_
    simp only [Instr.operandBits, toNat_getLsbD]
    omega

theorem encode_of_decodeZero (h : decodeZero w = some i) : encode i = w := by
  unfold decodeZero at h
  split at h <;> cases h <;> exact encode_eq_of_field 0 (by decide) ‹_› rfl (Nat.mod_one _).symm

theorem encode_of_firstMatch (h : firstMatch w = some i) : encode i = w := by
  simp only [firstMatch, Option.or_eq_some_iff] at h
  obtain h | ⟨-, h | ⟨-, h | ⟨-, h | ⟨-, h | ⟨-, h⟩⟩⟩⟩⟩ := h
  · exact encode_of_decodeDouble h
  · exact encode_of_decodeRmr h
  · exact encode_of_decodeSingle h
  · exact encode_of_decodeBranch h
  · exact encode_of_decodeShort h
  · exact encode_of_decodeZero h

end

/-! ## Each layer decodes the words of its format -/

section
variable {i : Instr}

theorem decodeDouble_encode (hspan : i.operandSpan = 2 ^ 12) : decodeDouble (encode i) = some i := by
  rw [decodeDouble, field_encode_fixed hspan (by decide) (by decide), ssField_encode hspan,
    ddField_encode hspan (by decide)]
  cases i with
  | mov s d | movb s d | cmp s d | cmpb s d | bit s d | bitb s d | bic s d | bicb s d | bis s d | bisb s d | add s d
  | sub s d =>
    rw [Instr.opcode, Instr.operandBits, mul_add_div_of_lt _ d.bits_lt, Operand.ofBits_bits,
      Operand.ofBits_mul_add_bits]
    rfl
  | _ => cases hspan

theorem decodeRmr_encode (hspan : i.operandSpan = 2 ^ 9) : decodeRmr (encode i) = some i := by
  rw [decodeRmr, field_encode_fixed hspan (by decide) (by decide), rField_encode hspan,
    ddField_encode hspan (by decide), ofNat_field_encode hspan (by decide)]
  cases i with
  | jsr r d | mul r d | div r d | ash r d | ashc r d | xor r d =>
    rw [Instr.opcode, Instr.operandBits, mul_add_div_of_lt _ d.bits_lt, Reg.ofBits_bits,
      Operand.ofBits_mul_add_bits]
    rfl
  | sob r n =>
    have hn : BitVec.ofNat 6 (r.bits * 64 + n.toNat) = n := BitVec.eq_of_toNat_eq (by simp; omega)
    rw [Instr.opcode, Instr.operandBits, mul_add_div_of_lt _ n.isLt, Reg.ofBits_bits, hn]
    rfl
  | _ => cases hspan

theorem decodeSingle_encode (hspan : i.operandSpan = 2 ^ 6) : decodeSingle (encode i) = some i := by
  rw [decodeSingle, field_encode_fixed hspan (by decide) (by decide), ddField_encode hspan (by decide),
    ofNat_field_encode hspan (by decide)]
  cases i with
  | jmp d | swab d | clr d | com d | inc d | dec d | neg d | adc d | sbc d | tst d | ror d | rol d | asr d | asl d
  | mfpi d | mtpi d | sxt d | clrb d | comb d | incb d | decb d | negb d | adcb d | sbcb d | tstb d | rorb d | rolb d
  | asrb d | aslb d | mtps d | mfpd d | mtpd d | mfps d =>
    rw [Instr.opcode, Instr.operandBits, Operand.ofBits_bits]
    rfl
  | mark n =>
    rw [Instr.opcode, Instr.operandBits, BitVec.ofNat_toNat, BitVec.setWidth_eq]
    rfl
  | _ => cases hspan

theorem decodeBranch_encode (hspan : i.operandSpan = 2 ^ 8) : decodeBranch (encode i) = some i := by
  rw [decodeBranch, field_encode_fixed hspan (by decide) (by decide), ofNat_field_encode hspan (by decide)]
  cases i with
  | br k | bne k | beq k | bge k | blt k | bgt k | ble k | bpl k | bmi k | bhi k | blos k | bvc k | bvs k | bcc k
  | bcs k | emt k | trap k =>
    rw [Instr.opcode, Instr.operandBits, BitVec.ofNat_toNat, BitVec.setWidth_eq]
    rfl
  | _ => cases hspan

/-- The operand bits of CCODE are its five flags, bit by bit (R84). -/
theorem operandBits_ccode_testBit : ∀ s n z v c : Bool, (Instr.ccode s n z v c).operandBits.testBit 4 = s ∧
    (Instr.ccode s n z v c).operandBits.testBit 3 = n ∧ (Instr.ccode s n z v c).operandBits.testBit 2 = z ∧
    (Instr.ccode s n z v c).operandBits.testBit 1 = v ∧ (Instr.ccode s n z v c).operandBits.testBit 0 = c := by
  decide

theorem decodeShort_encode (hspan : i.operandSpan = 2 ^ 5 ∨ i.operandSpan = 2 ^ 3) :
    decodeShort (encode i) = some i := by
  cases i with
  | rts r =>
    have hop : field (encode (.rts r)) 15 3 = 0o00020 := by
      rw [field_encode_fixed (n := 3) rfl (by decide) (by decide), Instr.opcode]
      rfl
    have hr : field (encode (.rts r)) 2 0 = r.bits := by
      rw [field_encode_free (n := 3) rfl (by decide) (by decide), Nat.pow_zero, Nat.div_one]
      exact Nat.mod_eq_of_lt r.bits_lt
    rw [decodeShort, if_pos hop, hr, Reg.ofBits_bits]
  | spl n =>
    have hop : field (encode (.spl n)) 15 3 = 0o00023 := by
      rw [field_encode_fixed (n := 3) rfl (by decide) (by decide), Instr.opcode]
      rfl
    rw [decodeShort, if_neg (by omega), if_pos hop, ofNat_field_encode (n := 3) rfl (by decide), Instr.operandBits,
      BitVec.ofNat_toNat, BitVec.setWidth_eq]
  | ccode s n z v c =>
    have hop : field (encode (.ccode s n z v c)) 15 5 = 0o0005 := by
      rw [field_encode_fixed (n := 5) rfl (by decide) (by decide), Instr.opcode]
      rfl
    have hrow : 0o00024 ≤ field (encode (.ccode s n z v c)) 15 3 := by
      rw [field_15 _ (by decide)] at hop ⊢
      omega
    obtain ⟨hs, hn, hz, hv, hc⟩ := operandBits_ccode_testBit s n z v c
    have hbit {k : Nat} (hk : k < 5) : _ := getLsbD_encode (i := .ccode s n z v c) (n := 5) rfl hk
    rw [decodeShort, if_neg (by omega), if_neg (by omega), if_pos hop, hbit (by decide), hbit (by decide),
      hbit (by decide), hbit (by decide), hbit (by decide), hs, hn, hz, hv, hc]
  | _ => rcases hspan with h | h <;> cases h

theorem decodeZero_encode (hspan : i.operandSpan = 2 ^ 0) : decodeZero (encode i) = some i := by
  rw [decodeZero, field_encode_fixed hspan (by decide) (by decide)]
  cases i with
  | halt | wait | rti | bpt | iot | reset | rtt => rfl
  | _ => cases hspan

end

/-! ## The layers before it do not match -/

/-- Where the words of each format but DOUBLE lie, from the opcode map (R96). -/
theorem toNat_encode_range (i : Instr) :
    i.operandSpan = 2 ^ 12 ∨
    i.operandSpan = 2 ^ 9 ∧ (0o004000 ≤ (encode i).toNat ∧ (encode i).toNat < 0o005000 ∨
      0o070000 ≤ (encode i).toNat ∧ (encode i).toNat < 0o100000) ∨
    i.operandSpan = 2 ^ 8 ∧ (0o000400 ≤ (encode i).toNat ∧ (encode i).toNat < 0o004000 ∨
      0o100000 ≤ (encode i).toNat ∧ (encode i).toNat < 0o105000) ∨
    i.operandSpan = 2 ^ 6 ∧ (0o000100 ≤ (encode i).toNat ∧ (encode i).toNat < 0o000200 ∨
      0o000300 ≤ (encode i).toNat ∧ (encode i).toNat < 0o000400 ∨
      0o005000 ≤ (encode i).toNat ∧ (encode i).toNat < 0o007000 ∨
      0o105000 ≤ (encode i).toNat ∧ (encode i).toNat < 0o107000) ∨
    (i.operandSpan = 2 ^ 5 ∨ i.operandSpan = 2 ^ 3) ∧ 0o000200 ≤ (encode i).toNat ∧ (encode i).toNat < 0o000300 ∨
    i.operandSpan = 2 ^ 0 ∧ (encode i).toNat < 0o000007 := by
  obtain ⟨hbits, -, -⟩ := encodedFields i
  rw [toNat_encode]
  generalize i.operandBits = b at hbits ⊢
  cases i <;> simp only [Instr.operandSpan, Instr.opcode] at hbits ⊢ <;> omega

section
variable {i : Instr}

theorem decodeDouble_encode_eq_none (h : i.operandSpan < 2 ^ 12) : decodeDouble (encode i) = none := by
  have := toNat_encode_range i
  rw [decodeDouble_eq_none_iff, field_15 _ (by decide)]
  omega

theorem decodeRmr_encode_eq_none (h : i.operandSpan < 2 ^ 9) : decodeRmr (encode i) = none := by
  have := toNat_encode_range i
  rw [decodeRmr_eq_none_iff, field_15 _ (by decide)]
  omega

theorem decodeSingle_encode_eq_none (h : i.operandSpan < 2 ^ 9) (hne : i.operandSpan ≠ 2 ^ 6) :
    decodeSingle (encode i) = none := by
  have := toNat_encode_range i
  rw [decodeSingle_eq_none_iff, field_15 _ (by decide)]
  omega

theorem decodeBranch_encode_eq_none (h : i.operandSpan < 2 ^ 6) : decodeBranch (encode i) = none := by
  have := toNat_encode_range i
  rw [decodeBranch_eq_none_iff, field_15 _ (by decide)]
  omega

theorem decodeShort_encode_eq_none (h : i.operandSpan < 2 ^ 3) : decodeShort (encode i) = none := by
  have := toNat_encode_range i
  rw [decodeShort_eq_none_iff, field_15 _ (by decide), field_15 _ (by decide)]
  omega

end

/-! ## The round trip -/

theorem firstMatch_encode (i : Instr) : firstMatch (encode i) = some i := by
  rw [firstMatch]
  obtain h | ⟨h, -⟩ | ⟨h, -⟩ | ⟨h, -⟩ | ⟨h, -⟩ | ⟨h, -⟩ := toNat_encode_range i
  · rw [decodeDouble_encode h, Option.some_or]
  · rw [decodeDouble_encode_eq_none (by omega), decodeRmr_encode h, Option.none_or, Option.some_or]
  · rw [decodeDouble_encode_eq_none (by omega), decodeRmr_encode_eq_none (by omega),
      decodeSingle_encode_eq_none (by omega) (by omega), decodeBranch_encode h]
    rfl
  · rw [decodeDouble_encode_eq_none (by omega), decodeRmr_encode_eq_none (by omega), decodeSingle_encode h]
    rfl
  · rw [decodeDouble_encode_eq_none (by omega), decodeRmr_encode_eq_none (by omega),
      decodeSingle_encode_eq_none (by omega) (by omega), decodeBranch_encode_eq_none (by omega), decodeShort_encode h]
    rfl
  · rw [decodeDouble_encode_eq_none (by omega), decodeRmr_encode_eq_none (by omega),
      decodeSingle_encode_eq_none (by omega) (by omega), decodeBranch_encode_eq_none (by omega),
      decodeShort_encode_eq_none (by omega), decodeZero_encode h]
    rfl

theorem decode_encode (i : Instr) : decode (encode i) = .ok i := decode_eq_ok_iff.mpr (firstMatch_encode i)

end Sys2Proof

/-! PROOFS. The claims about the encoding, and what a step does on a word that decodes to a stub or to nothing
(30_encoding.md R95 to R98; 46_system.md R192). -/

namespace Sys2Proof.Machine

/-- Settles O1: `decode_encode`, and the two bytes of a word make it up again. -/
theorem decodeEncodeAgree : Obligations.DecodeEncodeAgree :=
  fun i => ⟨decode_encode i, fun rest => by rw [decodeBytes, wordOfBytes_lowByte_highByte, decode_encode]⟩

/-- Settles O2: whichever layer matched, the encoder puts its row's fixed bits and the fields it read together again. -/
theorem encodeDecodeAgree : Obligations.EncodeDecodeAgree :=
  fun _ _ h => encode_of_firstMatch (decode_eq_ok_iff.mp h)

/-- Settles O5: layer 1 decides both classes, and the specifiers are its fields bit by bit. -/
theorem movClassDecodesToMov : Obligations.MovClassDecodesToMov := by
  intro w src dst
  have hfield {hi lo len : Nat} (h : lo + len = hi + 1) : field w hi lo = (w.extractLsb' lo len).toNat :=
    (toNat_extractLsb'_eq_field w h).symm
  have hsrc : ssField w = src := by
    rw [ssField_eq, hfield (show 9 + 3 = 11 + 1 from rfl), hfield (show 6 + 3 = 8 + 1 from rfl)]
  have hdst : ddField w = dst := by
    rw [ddField_eq, hfield (show 3 + 3 = 5 + 1 from rfl), hfield (show 0 + 3 = 2 + 1 from rfl)]
  have hclass : field w 15 12 = (w.extractLsb' 12 4).toNat := hfield rfl
  refine ⟨fun h => decode_of_decodeDouble ?_, fun h => decode_of_decodeDouble ?_⟩
  · rw [decodeDouble, hclass, h, hsrc, hdst]
    rfl
  · rw [decodeDouble, hclass, h, hsrc, hdst]
    rfl

/-- Settles O4, by running the decoder on the fourteen words. -/
theorem decodeSampleWords : Obligations.DecodeSampleWords := by
  unfold Obligations.DecodeSampleWords
  decide

/-! ## The word a step runs -/

/-- A step with no trap pending whose word is not stale runs that word, with `pc` two further (R214). -/
theorem step_eq_execWord {s u : State} {w : Word} (htrap : s.trap = none) (hstale : ¬ s.stale s.pc)
    (hf : s.fetchOpcode = .ok w u) : step s = execWord w (u.noteExecuted s.pc) ∧ u.pc = s.pc + 2 := by
  obtain ⟨l, rfl⟩ := fetchOpcode_ok hf
  exact ⟨(step_of_fetchOpcode_ok htrap hf).trans (execFetched_of_not_stale hstale), rfl⟩

theorem execWord_of_decode_ok {w : Word} {i : Instr} (s : State) (h : decode w = .ok i) :
    execWord w s = exec i s := by
  rw [execWord, h]

theorem execWord_of_unknownWord {w : Word} (s : State) (h : UnknownWord w) :
    execWord w s = .next s.raiseIllegal := by
  rw [execWord, decode_eq_error_iff.mpr ((firstMatch_eq_none_iff w).mpr h)]
  rfl

/-- Settles O3: the words no layer matches are the ranges of R97, and a step on one runs no instruction. -/
theorem unknownWordsTrap : Obligations.UnknownWordsTrap := by
  refine ⟨fun w => decode_eq_error_iff.trans (firstMatch_eq_none_iff w), fun w => ?_,
    fun s u w htrap hstale hf hw => ?_⟩
  · simp only [← firstMatch_eq_none_iff, decode_eq_ok_iff]
    exact Option.ne_none_iff_exists'.symm
  · obtain ⟨hstep, hpc⟩ := step_eq_execWord htrap hstale hf
    exact ⟨hstep.trans (execWord_of_unknownWord _ hw), hpc⟩

/-- Every stub's meaning is the same trap (30_encoding.md R98). -/
theorem exec_of_isStub {i : Instr} (h : i.isStub = true) (s : State) : exec i s = .next s.raiseIllegal := by
  cases i with
  | neg | negb | adc | adcb | sbc | sbcb | ror | rorb | rol | rolb | asr | asrb | asl | aslb | swab | sxt | mark | mfpi
  | mtpi | mtps | mfpd | mtpd | mfps | jmp | div | ashc | xor | sob | bpt | iot | reset | spl | emt | trap => rfl
  | _ => cases h

/-- Settles O47: each listed instruction is a stub, and a step runs the stub it fetches. -/
theorem stubsRaiseIllegalInstruction : Obligations.StubsRaiseIllegalInstruction := by
  refine ⟨fun o r n l k s i hi => ?_, fun s u i w hstub htrap hstale hf hw => ?_⟩
  · have hstub : i.isStub = true := List.all_eq_true.mp rfl i hi
    exact ⟨hstub, exec_of_isStub hstub s⟩
  · obtain ⟨hstep, hpc⟩ := step_eq_execWord htrap hstale hf
    exact ⟨(hstep.trans (execWord_of_decode_ok _ hw)).trans (exec_of_isStub hstub _), hpc⟩

/-! ## The words a specifier takes -/

theorem State.setX_pc (s : State) (r : Reg) (v : Word) : (s.setX r v).pc = if r = .pc then v else s.pc := by
  cases r <;> rfl

theorem fetch_ok_pc {s t : State} {w : Word} (h : s.fetch = .ok w t) : t.pc = s.pc + 2 := by
  obtain ⟨l, rfl⟩ := fetch_ok h
  rfl

theorem memRead_ok_pc {s t : State} {a v : Word} {sz : Size} (h : s.memRead a sz = .ok v t) : t.pc = s.pc :=
  memRead_ok_x h .pc

/-- Settles O53, mode by mode: the step of a register moves `pc` when the register is `pc`, a fetch always does, and a
read never. -/
theorem instructionLength : Obligations.InstructionLength := by
  rintro ⟨m, r⟩ sz s t loc h
  cases m with
  | register | deferred =>
    cases h
    simp
  | autoInc =>
    cases h
    by_cases hr : r = .pc <;> simp [State.setX_pc, stepOf, hr]
  | autoIncDeferred =>
    obtain ⟨a, u, hread, hk⟩ := Res.bind_eq_ok h
    cases hk
    by_cases hr : r = .pc <;> simp [State.setX_pc, memRead_ok_pc hread, hr]
  | autoDec =>
    cases h
    by_cases hr : r = .pc <;> simp [State.setX_pc, stepOf, hr]
  | autoDecDeferred =>
    obtain ⟨a, u, hread, hk⟩ := Res.bind_eq_ok h
    cases hk
    by_cases hr : r = .pc <;> simp [State.setX_pc, memRead_ok_pc hread, hr]
  | index =>
    obtain ⟨d, u, hfetch, hk⟩ := Res.bind_eq_ok h
    cases hk
    simp [fetch_ok_pc hfetch]
  | indexDeferred =>
    obtain ⟨d, u, hfetch, hk⟩ := Res.bind_eq_ok h
    obtain ⟨a, u', hread, hk'⟩ := Res.bind_eq_ok hk
    cases hk'
    simp [fetch_ok_pc hfetch, memRead_ok_pc hread]

end Sys2Proof.Machine

/-! PROOFS. What the two-operand instructions that read both operands come to (41_double_operand.md R109 to R118): each
flag function as its rule writes it, on words and on the bytes of byte operands, and the result after the operand phase
of R103. The branches after CMP go by the order of its operands (43_branches.md). -/

namespace Sys2Proof.Machine

/-! ## The condition codes as the rules write them -/

theorem logicFlags_word (r : Word) (cc : CC) :
    logicFlags .word r cc = { n := r.getLsbD 15, z := decide (r = 0), v := false, c := cc.c } := by
  rw [logicFlags, signOf_word, isZero_word]

theorem logicFlags_ofByte (b : Byte) (cc : CC) :
    logicFlags .byte (ofByte b) cc = { n := b.getLsbD 7, z := decide (b = 0), v := false, c := cc.c } := by
  rw [logicFlags, signOf_ofByte, isZero_ofByte]

/-- The V of CMP, two comparisons of signs, as the proposition its rule states; below, that of SUB and of ADD. -/
theorem bne_and_bne_eq_decide (a b c d : Bool) : (a != b && c != d) = decide (a ≠ b ∧ c ≠ d) := by
  revert a b c d
  decide

theorem bne_and_beq_eq_decide (a b c d : Bool) : (a != b && c == d) = decide (a ≠ b ∧ c = d) := by
  revert a b c d
  decide

theorem beq_and_bne_eq_decide (a b c d : Bool) : (a == b && c != d) = decide (a = b ∧ c ≠ d) := by
  revert a b c d
  decide

theorem cmpFlags_word (v d : Word) (cc : CC) : cmpFlags .word v d cc =
    { n := (v - d).getLsbD 15, z := decide (v - d = 0),
      v := decide (v.getLsbD 15 ≠ d.getLsbD 15 ∧ (v - d).getLsbD 15 ≠ v.getLsbD 15),
      c := decide (v.toNat < d.toNat) } := by
  simp only [cmpFlags, diff_word, signOf_word, isZero_word, bne_and_bne_eq_decide]

theorem cmpFlags_ofByte (v d : Byte) (cc : CC) : cmpFlags .byte (ofByte v) (ofByte d) cc =
    { n := (v - d).getLsbD 7, z := decide (v - d = 0),
      v := decide (v.getLsbD 7 ≠ d.getLsbD 7 ∧ (v - d).getLsbD 7 ≠ v.getLsbD 7),
      c := decide (v.toNat < d.toNat) } := by
  simp only [cmpFlags, diff_byte, signOf_ofByte, isZero_ofByte, ofByte_toNat, bne_and_bne_eq_decide]

theorem subFlags_eq (v d : Word) (cc : CC) : subFlags v d cc =
    { n := (d - v).getLsbD 15, z := decide (d - v = 0),
      v := decide (v.getLsbD 15 ≠ d.getLsbD 15 ∧ (d - v).getLsbD 15 = v.getLsbD 15),
      c := decide (d.toNat < v.toNat) } := by
  simp only [subFlags, diff_word, signOf_word, isZero_word, bne_and_beq_eq_decide]

theorem addFlags_eq (v d : Word) (cc : CC) : addFlags v d cc =
    { n := (v + d).getLsbD 15, z := decide (v + d = 0),
      v := decide (v.getLsbD 15 = d.getLsbD 15 ∧ (v + d).getLsbD 15 ≠ v.getLsbD 15),
      c := decide (2 ^ 16 ≤ v.toNat + d.toNat) } := by
  simp only [addFlags, addResult, signOf_word, isZero_word, beq_and_bne_eq_decide, ge_iff_le]

/-! ## After the operand phase -/

section
variable {sz : Size} {src dst : Operand} {s t w : State} {v d r : Word} {loc : Loc} {cc : CC}
  {f : Word → Word → Word} {g : Word → Word → CC → CC}

theorem testTwo_outcome (hget : GetsOperands sz src dst s v d loc t) (hg : g v d t.cc = cc) :
    (testTwo sz src dst g s).outcome = .next (t.setCC cc) := by
  rw [testTwo, twoOperands_of_gets hget, ← hg]
  rfl

/-- Flags, then the write, in whose last state the instruction ends (R103, R104). -/
theorem modifyTwo_outcome (hget : GetsOperands sz src dst s v d loc t) (hf : f v d = r) (hg : g v d t.cc = cc)
    (hw : (writeOp loc sz r (t.setCC cc)).endsIn w) : (modifyTwo sz src dst f g s).outcome = .next w := by
  rw [modifyTwo, twoOperands_of_gets hget]
  subst hf hg
  exact Res.outcome_of_endsIn hw

end

/-- Settles O22: the operand phase, then `cmpFlags` on words and on bytes. -/
theorem compareResults : Obligations.CompareResults :=
  ⟨fun _ _ _ v d _ t hget => testTwo_outcome hget (cmpFlags_word v d t.cc),
    fun _ _ _ v d _ t hget => testTwo_outcome hget (cmpFlags_ofByte v d t.cc)⟩

/-- Settles O23: the operand phase, then the flags of `s & d`. -/
theorem bitTestResults : Obligations.BitTestResults := by
  refine ⟨fun _ _ _ v d _ t hget => testTwo_outcome hget ?_, fun _ _ _ v d _ t hget => testTwo_outcome hget ?_⟩
  · rw [bitResult_word, logicFlags_word]
  · rw [bitResult_byte, logicFlags_ofByte]

/-- Settles O24: the flags and the write are those of one result, `~s & d`. -/
theorem bitClearResults : Obligations.BitClearResults := by
  refine ⟨fun _ _ _ v d _ t w hget hw => modifyTwo_outcome hget (bicResult_word v d) ?_ hw,
    fun _ _ _ v d _ t w hget hw => modifyTwo_outcome hget (bicResult_byte v d) ?_ hw⟩
  · rw [bicResult_word, logicFlags_word]
  · rw [bicResult_byte, logicFlags_ofByte]

/-- Settles O25: the flags and the write are those of one result, `s | d`. -/
theorem bitSetResults : Obligations.BitSetResults := by
  refine ⟨fun _ _ _ v d _ t w hget hw => modifyTwo_outcome hget (bisResult_word v d) ?_ hw,
    fun _ _ _ v d _ t w hget hw => modifyTwo_outcome hget (bisResult_byte v d) ?_ hw⟩
  · rw [bisResult_word, logicFlags_word]
  · rw [bisResult_byte, logicFlags_ofByte]

/-- Settles O26: a sum of words is by definition the sum modulo 2^16. (`addResult` is the model's name for that sum.) -/
theorem addResult_holds : Obligations.AddResult :=
  fun _ _ _ v d _ t _ hget hw => modifyTwo_outcome hget rfl (addFlags_eq v d t.cc) hw

/-- Settles O27: the model's `diff` of destination and source is their difference. -/
theorem subResult : Obligations.SubResult :=
  fun _ _ _ v d _ t _ hget hw => modifyTwo_outcome hget (diff_word d v) (subFlags_eq v d t.cc) hw

/-! ## The order that CMP leaves in its flags -/

/-- The sign of a difference, put right by the overflow, says the signed order, at every width. -/
theorem msb_sub_xor_ssubOverflow {w : Nat} (x y : BitVec w) :
    ((x - y).msb ^^ x.ssubOverflow y) = decide (x.toInt < y.toInt) := by
  rw [← BitVec.slt_eq_decide]
  by_cases hsign : x.msb = y.msb
  · have hno : x.ssubOverflow y = false := by rw [BitVec.ssubOverflow_eq, hsign]; cases y.msb <;> rfl
    rw [hno, Bool.xor_false, BitVec.msb_eq_toInt, BitVec.toInt_sub_of_not_ssubOverflow (by simp [hno]),
      BitVec.slt_eq_decide]
    exact decide_eq_decide.mpr sub_neg
  · rw [BitVec.ssubOverflow_eq, BitVec.slt_eq_ult, BitVec.ult_eq_msb_of_msb_neq hsign, Bool.eq_not.mpr (Ne.symm hsign)]
    cases x.msb <;> cases (x - y).msb <;> rfl

section
variable (v d : Word) (cc : CC)

theorem cmpFlags_word_less : (cmpFlags .word v d cc).less = decide (v.toInt < d.toInt) := by
  rw [CC.less, cmpFlags_word_v, ← msb_sub_xor_ssubOverflow, ← signOf_word_eq_msb, ← diff_word]
  rfl

theorem cmpFlags_word_z : (cmpFlags .word v d cc).z = decide (v = d) := by
  rw [cmpFlags_word]
  exact decide_eq_decide.mpr sub_eq_zero

theorem cmpFlags_word_c : (cmpFlags .word v d cc).c = decide (v.toNat < d.toNat) := rfl

theorem cmpFlags_word_lessEqual : (cmpFlags .word v d cc).lessEqual = decide (v.toInt ≤ d.toInt) := by
  have hle : v.toInt ≤ d.toInt ↔ v = d ∨ v.toInt < d.toInt := by
    rw [← BitVec.toInt_inj]
    omega
  calc (cmpFlags .word v d cc).lessEqual
    _ = (decide (v = d) || decide (v.toInt < d.toInt)) := by
      rw [← cmpFlags_word_z v d cc, ← cmpFlags_word_less v d cc]
      rfl
    _ = decide (v.toInt ≤ d.toInt) := by rw [← Bool.decide_or, decide_eq_decide.mpr hle.symm]

theorem cmpFlags_word_lowerSame : (cmpFlags .word v d cc).lowerSame = decide (v.toNat ≤ d.toNat) := by
  have hle : v.toNat ≤ d.toNat ↔ v.toNat < d.toNat ∨ v = d := by
    rw [← BitVec.toNat_inj]
    omega
  rw [CC.lowerSame, cmpFlags_word_c, cmpFlags_word_z, ← Bool.decide_or]
  exact decide_eq_decide.mpr hle.symm

end

/-- A branch on the negation of a condition is a branch on the opposite order. -/
theorem branchIf_not_of_eq_decide {taken : Bool} {p q : Prop} [Decidable p] [Decidable q] (h : taken = decide p)
    (hpq : ¬ p ↔ q) (off : BitVec 8) (u : State) : branchIf (!taken) off u = branchIf (decide q) off u := by
  rw [h, ← decide_not, decide_eq_decide.mpr hpq]

/-- Settles O37: the condition of each branch is one of the orders that CMP leaves, or its negation. -/
theorem compareThenBranch : Obligations.CompareThenBranch := by
  intro src dst s v d loc t off hget
  obtain ⟨u, hexec, hcc⟩ : ∃ u, exec (.cmp src dst) s = .next u ∧ u.cc = cmpFlags .word v d t.cc :=
    ⟨_, testTwo_outcome hget rfl, State.setCC_cc t _⟩
  have hless : u.cc.less = decide (v.toInt < d.toInt) := by rw [hcc, cmpFlags_word_less]
  have hle : u.cc.lessEqual = decide (v.toInt ≤ d.toInt) := by rw [hcc, cmpFlags_word_lessEqual]
  have hlow : u.cc.c = decide (v.toNat < d.toNat) := by rw [hcc, cmpFlags_word_c]
  have hsame : u.cc.lowerSame = decide (v.toNat ≤ d.toNat) := by rw [hcc, cmpFlags_word_lowerSame]
  have heq : u.cc.z = decide (v = d) := by rw [hcc, cmpFlags_word_z]
  refine ⟨u, hexec, ?blt, ?bge, ?bgt, ?ble, ?bcs, ?bcc, ?bhi, ?blos, ?beq, ?bne⟩
  case blt => exact congrArg (branchIf · off u) hless
  case bge => exact branchIf_not_of_eq_decide hless Int.not_lt off u
  case bgt => exact branchIf_not_of_eq_decide hle Int.not_le off u
  case ble => exact congrArg (branchIf · off u) hle
  case bcs => exact congrArg (branchIf · off u) hlow
  case bcc => exact branchIf_not_of_eq_decide hlow Nat.not_lt off u
  case bhi => exact branchIf_not_of_eq_decide hsame Nat.not_le off u
  case blos => exact congrArg (branchIf · off u) hsame
  case beq => exact congrArg (branchIf · off u) heq
  case bne => exact branchIf_not_of_eq_decide heq Iff.rfl off u

end Sys2Proof.Machine

/-! PROOFS. MOV and MOVB (41_double_operand.md R103 to R108), and the traps of an operand phase (R106;
42_single_operand.md R119). MOV and MOVB are one instruction of two sizes, `moveOf`; only the write differs. The first
trap of an operand phase is the instruction's outcome, and leaves everything but the registers the specifiers step and,
where MOV has written its flags before it, the condition codes. -/

namespace Sys2Proof.Machine

/-! ## MOV and MOVB as one instruction -/

/-- The write of MOV or MOVB (R107, R108). -/
def writeMove (sz : Size) (loc : Loc) (v : Word) (s : State) : Res Unit :=
  match sz with
  | .word => writeOp loc .word v s
  | .byte => writeMovb loc v s

theorem exec_moveOf (sz : Size) (src dst : Operand) (s : State) : exec (moveOf src dst sz) s =
    ((moveOperands sz src dst (logicFlags sz) s).bind fun p u => writeMove sz p.2 p.1 u).outcome := by
  cases sz <;> rfl

/-- MOVB to a register writes the sign-extended byte, whole (R108). -/
theorem writeMove_byte_reg (r : Reg) (b : Byte) (s : State) :
    writeMove .byte (.reg r) (ofByte b) s = .ok () (s.setX r (b.signExtend 16)) := by
  rw [writeMove, writeMovb, signExtendByte, lowByte_ofByte]

section
variable {sz : Size} {src dst : Operand} {s s1 s2 s3 u : State} {sloc dloc : Loc} {v : Word}

/-- Under SRC_FIRST the source is read and the flags are written before the destination is resolved (R104). -/
theorem exec_moveOf_of_srcFirst (ho : s.params.operandOrder = .srcFirst) (hsrc : resolve src sz s = .ok sloc s1)
    (hread : readOp sloc sz s1 = .ok v s2) : exec (moveOf src dst sz) s =
      ((resolve dst sz (s2.setCC (logicFlags sz v s2.cc))).bind fun loc u => writeMove sz loc v u).outcome := by
  rw [exec_moveOf, moveOperands, ho]
  simp only [readOperand, hsrc, hread, Res.bind_ok]
  cases resolve dst sz (s2.setCC (logicFlags sz v s2.cc)) <;> rfl

/-- Under RESOLVE_BOTH_FIRST the flags are written after both resolutions and the read (R103). -/
theorem exec_moveOf_of_resolveBothFirst (ho : s.params.operandOrder = .resolveBothFirst)
    (hsrc : resolve src sz s = .ok sloc s1) (hdst : resolve dst sz s1 = .ok dloc s2)
    (hread : readOp sloc sz s2 = .ok v s3) :
    exec (moveOf src dst sz) s = (writeMove sz dloc v (s3.setCC (logicFlags sz v s3.cc))).outcome := by
  rw [exec_moveOf, moveOperands, ho]
  simp only [hsrc, hdst, hread, Res.bind_ok]

theorem exec_moveOf_of_traps (h : MoveTraps sz src dst s u) : exec (moveOf src dst sz) s = .next u := by
  rw [exec_moveOf, moveOperands_of_traps h]
  rfl

/-! ## What a trap in an operand phase leaves -/

/-- A trap in one operand leaves all but the registers its specifier steps. -/
theorem OperandTraps.sourceTrapLeaves {o : Operand} (h : OperandTraps sz o s u) : SourceTrapLeaves o s u :=
  h.leaves (fun _ => id) (OperandTrapLeaves.refl _ s)

theorem TwoOperandsTrap.leaves (h : TwoOperandsTrap sz src dst s u) :
    OperandTrapLeaves (fun r => touches src r ∨ touches dst r) s u :=
  Res.All_of_trapped
    (twoOperands_all (leaves_closed _ s) sz src dst (fun _ => .inl) (fun _ => .inr) (OperandTrapLeaves.refl _ s))
    (twoOperands_of_traps h)

/-- The source's traps are MOV's first under SRC_FIRST, and no flag is written before them. -/
theorem exec_moveOf_of_sourceTraps (h : OperandTraps sz src s u) (ho : s.params.operandOrder = .srcFirst) :
    exec (moveOf src dst sz) s = .next u ∧ SourceTrapLeaves src s u := by
  refine ⟨exec_moveOf_of_traps ?_, h.sourceTrapLeaves⟩
  rw [MoveTraps, ho]
  exact .inl h

/-- Under RESOLVE_BOTH_FIRST no flag is written before the last operand trap of MOV. -/
theorem MoveTraps.leaves_of_resolveBothFirst (h : MoveTraps sz src dst s u)
    (ho : s.params.operandOrder = .resolveBothFirst) :
    OperandTrapLeaves (fun r => touches src r ∨ touches dst r) s u := by
  have hrefl := OperandTrapLeaves.refl (fun r => touches src r ∨ touches dst r) s
  have hsrc := resolve_leaves sz (o := src) (fun _ => .inl) hrefl
  rw [MoveTraps, ho] at h
  obtain h1 | ⟨sloc, s1, h1, h⟩ := h
  · exact Res.All_of_trapped hsrc h1
  have hdst := resolve_leaves sz (o := dst) (fun _ => .inr) (Res.All_of_ok hsrc h1)
  obtain h2 | ⟨dloc, s2, h2, h3⟩ := h
  · exact Res.All_of_trapped hdst h2
  · exact Res.All_of_trapped (readOp_leaves sloc sz (Res.All_of_ok hdst h2)) h3

theorem State.setCC_self (s : State) : s.setCC s.cc = s := by
  rw [State.setCC, State.cc, psw_split]

theorem OperandTrapLeaves.setCC {W : Reg → Prop} {s t : State} (h : OperandTrapLeaves W s t) (cc : CC) :
    OperandTrapLeaves W (s.setCC cc) (t.setCC cc) := by
  obtain ⟨hpsw, hcore, hshadow, hslot, hx⟩ := h
  exact ⟨by rw [State.setCC_psw, State.setCC_psw, hpsw], hcore, hshadow, hslot, by simpa using hx⟩

/-- Under either order a trap of MOV's operand phase leaves what it would leave of the state with some other condition
codes: those written before the trap, or the old ones. -/
theorem MoveTraps.leaves (h : MoveTraps sz src dst s u) :
    ∃ cc, OperandTrapLeaves (fun r => touches src r ∨ touches dst r) (s.setCC cc) u := by
  have hrefl := OperandTrapLeaves.refl (fun r => touches src r ∨ touches dst r) s
  cases ho : s.params.operandOrder with
  | resolveBothFirst => exact ⟨s.cc, (s.setCC_self).symm ▸ h.leaves_of_resolveBothFirst ho⟩
  | srcFirst =>
    rw [MoveTraps, ho] at h
    obtain hsrc | ⟨sloc, s1, v, s2, hsrc, hread, hdst⟩ := h
    · exact ⟨s.cc, (s.setCC_self).symm ▸ hsrc.leaves (fun _ => .inl) hrefl⟩
    · have h1 := Res.All_of_ok (resolve_leaves sz (fun _ => .inl) hrefl) hsrc
      have h2 := Res.All_of_ok (readOp_leaves sloc sz h1) hread
      exact ⟨_, Res.All_of_trapped (resolve_leaves sz (fun _ => .inr) (h2.setCC _)) hdst⟩

end

/-! ## The results of MOV and MOVB -/

/-- Settles O19: the source's traps, then `exec_moveOf_of_srcFirst` on words. -/
theorem movResult : Obligations.MovResult := by
  intro src dst s ho
  refine ⟨fun w hw => exec_moveOf_of_sourceTraps (sz := .word) (.inl hw) ho, fun sloc s1 hsrc =>
    ⟨fun w hw => exec_moveOf_of_sourceTraps (sz := .word) (.inr ⟨sloc, s1, hsrc, hw⟩) ho, fun v s2 hread => ?_⟩⟩
  have hexec := exec_moveOf_of_srcFirst (dst := dst) ho hsrc hread
  rw [logicFlags_word] at hexec
  refine ⟨fun w hw => hexec.trans ?_, fun dloc s4 hdst w hw => hexec.trans ?_⟩
  · rw [hw]
    rfl
  · rw [hdst]
    exact Res.outcome_of_endsIn hw

/-- Settles O20: the source's traps, then `exec_moveOf_of_srcFirst` on bytes, with the write by the locator. -/
theorem movbResult : Obligations.MovbResult := by
  intro src dst s ho
  refine ⟨fun w hw => exec_moveOf_of_sourceTraps (sz := .byte) (.inl hw) ho, fun sloc s1 hsrc =>
    ⟨fun w hw => exec_moveOf_of_sourceTraps (sz := .byte) (.inr ⟨sloc, s1, hsrc, hw⟩) ho, fun b s2 hread => ?_⟩⟩
  have hexec := exec_moveOf_of_srcFirst (dst := dst) ho hsrc hread
  rw [logicFlags_ofByte] at hexec
  refine ⟨fun w hw => hexec.trans ?_, fun r s4 hdst => hexec.trans ?_, fun a s4 hdst w hw => hexec.trans ?_⟩
  · rw [hw]
    rfl
  · rw [hdst, Res.bind_ok, writeMove_byte_reg]
    rfl
  · rw [hdst]
    exact Res.outcome_of_endsIn hw

/-- Settles O21: the traps are those of `MoveTraps` under this order; the results are `exec_moveOf_of_resolveBothFirst`
on words and on bytes. -/
theorem moveResolvesBothFirst : Obligations.MoveResolvesBothFirst := by
  intro src dst s ho
  refine ⟨fun sz u h => ?_, fun sloc dloc s1 s2 v s3 hsrc hdst hread w hw => ?_,
    fun sloc dloc s1 s2 b s3 hsrc hdst hread => ?_⟩
  · have htraps : MoveTraps sz src dst s u := by
      rw [MoveTraps, ho]
      exact h
    exact ⟨exec_moveOf_of_traps htraps, htraps.leaves_of_resolveBothFirst ho⟩
  · have hexec := exec_moveOf_of_resolveBothFirst ho hsrc hdst hread
    rw [logicFlags_word] at hexec
    exact hexec.trans (Res.outcome_of_endsIn hw)
  · have hexec := exec_moveOf_of_resolveBothFirst ho hsrc hdst hread
    rw [logicFlags_ofByte] at hexec
    refine ⟨fun r hr => hexec.trans ?_, fun a w ha hw => hexec.trans ?_⟩
    · rw [hr, writeMove_byte_reg]
      rfl
    · rw [ha]
      exact Res.outcome_of_endsIn hw

/-! ## A trap in the operand phase ends the instruction -/

section
variable {sz : Size} {src dst : Operand} {s u : State}

theorem testTwo_of_traps (h : TwoOperandsTrap sz src dst s u) (g : Word → Word → CC → CC) :
    (testTwo sz src dst g s).outcome = .next u := by
  rw [testTwo, twoOperands_of_traps h]
  rfl

theorem modifyTwo_of_traps (h : TwoOperandsTrap sz src dst s u) (f : Word → Word → Word) (g : Word → Word → CC → CC) :
    (modifyTwo sz src dst f g s).outcome = .next u := by
  rw [modifyTwo, twoOperands_of_traps h]
  rfl

theorem testOne_of_traps (h : OperandTraps sz dst s u) (g : Word → CC → CC) :
    (testOne sz dst g s).outcome = .next u := by
  rw [testOne, oneOperand_of_traps h]
  rfl

theorem modifyOne_of_traps (h : OperandTraps sz dst s u) (f : Word → Word) (g : Word → CC → CC) :
    (modifyOne sz dst f g s).outcome = .next u := by
  rw [modifyOne, oneOperand_of_traps h]
  rfl

theorem clearOne_of_traps {cc : CC} (h : resolve dst sz (s.setCC cc) = .trapped u) :
    (clearOne sz dst cc s).outcome = .next u := by
  rw [clearOne, h]
  rfl

/-- ASH and MUL read their source first (45_register_ops.md R174). -/
theorem exec_ash_of_traps (r : Reg) (h : OperandTraps .word src s u) : exec (.ash r src) s = .next u := by
  show execAsh r src s = _
  rw [execAsh, readOperand_of_traps h]
  rfl

theorem exec_mul_of_traps (r : Reg) (h : OperandTraps .word src s u) : exec (.mul r src) s = .next u := by
  show execMul r src s = _
  rw [execMul, readOperand_of_traps h]
  rfl

theorem exec_jsr_of_traps (r : Reg) (h : resolve dst .word s = .trapped u) : exec (.jsr r dst) s = .next u := by
  show execJsr r dst s = _
  rw [execJsr, h]
  rfl

theorem exec_readersOfTwo_of_traps (h : TwoOperandsTrap sz src dst s u) :
    ∀ i ∈ readersOfTwo src dst sz, exec i s = .next u := by
  rw [← List.forall_iff_forall_mem]
  have ht := testTwo_of_traps h
  have hm := modifyTwo_of_traps h
  cases sz with
  | word => exact ⟨ht _, ht _, hm _ _, hm _ _, hm _ _, hm _ _⟩
  | byte => exact ⟨ht _, ht _, hm _ _, hm _ _⟩

theorem exec_readersOfOne_of_traps (r : Reg) (h : OperandTraps sz dst s u) :
    ∀ i ∈ readersOfOne r dst sz, exec i s = .next u := by
  rw [← List.forall_iff_forall_mem]
  have hm := modifyOne_of_traps h
  cases sz with
  | word => exact ⟨hm _ _, hm _ _, hm _ _, testOne_of_traps h _, exec_ash_of_traps r h, exec_mul_of_traps r h⟩
  | byte => exact ⟨hm _ _, hm _ _, hm _ _, testOne_of_traps h _⟩

end

/-- Settles O34: each family of instructions by its operand phase. MOV's traps may leave new condition codes, which are
neither memory nor registers. -/
theorem operandTrapEndsInstruction : Obligations.OperandTrapEndsInstruction := by
  refine ⟨fun sz src dst s u h => ⟨exec_readersOfTwo_of_traps h, h.leaves⟩,
    fun sz src dst s u h => ⟨exec_moveOf_of_traps h, ?_⟩,
    fun sz r o s u h => ⟨exec_readersOfOne_of_traps r h, h.sourceTrapLeaves⟩, fun o s u => ⟨fun h => ?_, fun h => ?_⟩,
    fun r o s u h => ⟨exec_jsr_of_traps r h, OperandTraps.sourceTrapLeaves (.inl h)⟩⟩
  · obtain ⟨cc, -, hcore, -, -, hx⟩ := h.leaves
    exact ⟨hcore, fun r hsrc hdst => (hx r (not_or.mpr ⟨hsrc, hdst⟩)).trans (s.setCC_x cc r)⟩
  · exact ⟨clearOne_of_traps h, OperandTraps.sourceTrapLeaves (.inl h)⟩
  · exact ⟨clearOne_of_traps h, OperandTraps.sourceTrapLeaves (.inl h)⟩

end Sys2Proof.Machine

/-! PROOFS. The frames of the two-operand instructions and of those that write flags only (41_double_operand.md R103 to
R118; 42_single_operand.md R128, R129; 10_state.md R31): what every update of the instruction keeps, by
`framed_closed`. -/

namespace Sys2Proof.Machine

/-- C is unchanged: what an instruction whose flags are `logicFlags` keeps of the condition codes. -/
def SameCarry (a b : CC) : Prop := b.c = a.c

theorem SameCarry.refl (a : CC) : SameCarry a a := rfl

theorem SameCarry.trans (a b c : CC) (hab : SameCarry a b) (hbc : SameCarry b c) : SameCarry a c := Eq.trans hbc hab

/-- Every flag may change. -/
def AnyFlags (_ _ : CC) : Prop := True

theorem AnyFlags.refl (a : CC) : AnyFlags a a := trivial

theorem AnyFlags.trans (a b c : CC) (_ : AnyFlags a b) (_ : AnyFlags b c) : AnyFlags a c := trivial

section
variable {sz : Size} {src dst : Operand} {s t : State} {K : CC → CC → Prop}

/-- MOV and MOVB write the registers the specifiers step and a mode-0 destination, and store at the address of
`storedByMove`. -/
theorem moveOf_framed (h : exec (moveOf src dst sz) s = .next t) :
    Framed (fun r => touches src r ∨ touches dst r ∨ isDestReg dst r) SameCarry (storedByMove sz src dst s) sz
      s t := by
  rw [exec_moveOf] at h
  refine Res.All_outcome (move_all (framed_closed s SameCarry.trans) sz src dst (f := logicFlags sz) (writeMove sz)
    (fun _ _ => rfl) (fun loc v u hu hr ha => ?write) (fun _ => .inl) (fun _ hr => .inr (.inl hr))
    (fun hm => .inr (.inr ⟨hm, rfl⟩)) (fun v a u hok => ?stored) (Framed.refl SameCarry.refl s)) h
  case write =>
    cases sz with
    | word => exact writeOp_all (framed_closed s SameCarry.trans) v hr ha hu
    | byte => exact writeMovb_all (framed_closed s SameCarry.trans) v hr ha hu
  case stored =>
    rw [storedByMove, hok]
    exact ⟨rfl, rfl⟩

theorem modifyTwo_framed {f : Word → Word → Word} {g : Word → Word → CC → CC}
    (h : (modifyTwo sz src dst f g s).outcome = .next t) (hrefl : ∀ a, K a a)
    (htrans : ∀ a b c, K a b → K b c → K a c) (hg : ∀ v d cc, K cc (g v d cc)) :
    Framed (fun r => touches src r ∨ touches dst r ∨ isDestReg dst r) K (storedByTwo sz src dst s) sz s t := by
  refine Res.All_outcome (modifyTwo_all (framed_closed s htrans) sz src dst f hg (fun _ => .inl)
    (fun _ hr => .inr (.inl hr)) (fun hm => .inr (.inr ⟨hm, rfl⟩)) (fun v d a u hok => ?_)
    (Framed.refl hrefl s)) h
  rw [storedByTwo, hok]
  exact ⟨rfl, rfl⟩

theorem testTwo_framed {g : Word → Word → CC → CC} (h : (testTwo sz src dst g s).outcome = .next t)
    (hrefl : ∀ a, K a a) (htrans : ∀ a b c, K a b → K b c → K a c) (hg : ∀ v d cc, K cc (g v d cc)) :
    Framed (fun r => touches src r ∨ touches dst r) K none .word s t :=
  Res.All_outcome (testTwo_all (framed_closed s htrans) sz src dst hg (fun _ => .inl) (fun _ => .inr)
    (Framed.refl hrefl s)) h

theorem testOne_framed {g : Word → CC → CC} (h : (testOne sz dst g s).outcome = .next t) :
    Framed (touches dst) AnyFlags none .word s t :=
  Res.All_outcome (testOne_all (framed_closed s AnyFlags.trans) sz dst (fun _ _ => trivial) (fun _ => id)
    (Framed.refl AnyFlags.refl s)) h

/-- What a frame says beside the condition codes. -/
theorem Framed.kept_and_bytesKept {W : Reg → Prop} {stored : Option Word} (h : Framed W K stored sz s t) :
    Kept W s t ∧ BytesKept stored sz s t :=
  ⟨h.1, h.2.2⟩

end

/-! ## The frames -/

/-- Settles O56: MOV and MOVB by `moveOf_framed`; BIC and BIS keep C, for their flags are `logicFlags` of the result;
ADD and SUB write every flag. -/
theorem frameTwoOperandWriters : Obligations.FrameTwoOperandWriters := by
  intro src dst s t W
  refine ⟨fun h => moveOf_framed (sz := .word) h, fun h => moveOf_framed (sz := .byte) h, ?_, ?_, ?_⟩
  · rintro (h | h) <;> exact modifyTwo_framed h SameCarry.refl SameCarry.trans fun _ _ _ => rfl
  · rintro (h | h) <;> exact modifyTwo_framed h SameCarry.refl SameCarry.trans fun _ _ _ => rfl
  · rintro (h | h) <;>
      exact (modifyTwo_framed h AnyFlags.refl AnyFlags.trans fun _ _ _ => trivial).kept_and_bytesKept

/-- Settles O57: nothing is stored; BIT and BITB keep C, for their flags are `logicFlags` of the result. -/
theorem frameFlagOnly : Obligations.FrameFlagOnly := by
  intro src dst s t W
  refine ⟨?_, ?_, ?_⟩
  · rintro (h | h) <;> exact (testTwo_framed h AnyFlags.refl AnyFlags.trans fun _ _ _ => trivial).kept_and_bytesKept
  · rintro (h | h) <;> exact testTwo_framed h SameCarry.refl SameCarry.trans fun _ _ _ => rfl
  · rintro (h | h) <;> exact (testOne_framed h).kept_and_bytesKept

end Sys2Proof.Machine

/-! PROOFS. The one-operand instructions (42_single_operand.md R119 to R129; 10_state.md R31): each flag function as its
rule writes it, on words and on the bytes of byte operands, the result after the operand phase of R119, and the frames
of the instructions that write their destination. -/

namespace Sys2Proof.Machine

/-! ## The condition codes as the rules write them -/

theorem comFlags_word (d : Word) (cc : CC) : comFlags .word d cc =
    { n := (~~~d).getLsbD 15, z := decide (~~~d = 0), v := false, c := true } := by
  simp only [comFlags, comResult_word, signOf_word, isZero_word]

theorem comFlags_ofByte (d : Byte) (cc : CC) : comFlags .byte (ofByte d) cc =
    { n := (~~~d).getLsbD 7, z := decide (~~~d = 0), v := false, c := true } := by
  simp only [comFlags, comResult_byte, signOf_ofByte, isZero_ofByte]

theorem incFlags_word (d : Word) (cc : CC) : incFlags .word d cc =
    { n := (d + 1).getLsbD 15, z := decide (d + 1 = 0), v := decide (d + 1 = 0o100000), c := cc.c } := by
  simp only [incFlags, incResult_word, signOf_word, isZero_word]
  rfl

theorem incFlags_ofByte (d : Byte) (cc : CC) : incFlags .byte (ofByte d) cc =
    { n := (d + 1).getLsbD 7, z := decide (d + 1 = 0), v := decide (d + 1 = 0o200), c := cc.c } := by
  simp only [incFlags, incResult_byte, signOf_ofByte, isZero_ofByte, minOf_byte, ofByte_beq]
  rfl

theorem decFlags_word (d : Word) (cc : CC) : decFlags .word d cc =
    { n := (d - 1).getLsbD 15, z := decide (d - 1 = 0), v := decide (d - 1 = 0o077777), c := cc.c } := by
  simp only [decFlags, decResult_word, signOf_word, isZero_word]
  rfl

theorem decFlags_ofByte (d : Byte) (cc : CC) : decFlags .byte (ofByte d) cc =
    { n := (d - 1).getLsbD 7, z := decide (d - 1 = 0), v := decide (d - 1 = 0o177), c := cc.c } := by
  simp only [decFlags, decResult_byte, signOf_ofByte, isZero_ofByte, maxOf_byte, ofByte_beq]
  rfl

theorem tstFlags_word (d : Word) (cc : CC) : tstFlags .word d cc =
    { n := d.getLsbD 15, z := decide (d = 0), v := false, c := false } := by
  rw [tstFlags, signOf_word, isZero_word]

theorem tstFlags_ofByte (d : Byte) (cc : CC) : tstFlags .byte (ofByte d) cc =
    { n := d.getLsbD 7, z := decide (d = 0), v := false, c := false } := by
  rw [tstFlags, signOf_ofByte, isZero_ofByte]

/-! ## After the operand phase -/

section
variable {sz : Size} {dst : Operand} {s t w : State} {d r : Word} {loc : Loc} {cc : CC} {f : Word → Word}
  {g : Word → CC → CC}

theorem testOne_outcome (hget : GetsOperand sz dst s d loc t) (hg : g d t.cc = cc) :
    (testOne sz dst g s).outcome = .next (t.setCC cc) := by
  rw [testOne, oneOperand_of_gets hget, ← hg]
  rfl

/-- Flags, then the write, in whose last state the instruction ends (R119). -/
theorem modifyOne_outcome (hget : GetsOperand sz dst s d loc t) (hf : f d = r) (hg : g d t.cc = cc)
    (hw : (writeOp loc sz r (t.setCC cc)).endsIn w) : (modifyOne sz dst f g s).outcome = .next w := by
  rw [modifyOne, oneOperand_of_gets hget]
  subst hf hg
  exact Res.outcome_of_endsIn hw

/-- The destination is resolved after the flags are written, and not read (R120). -/
theorem clearOne_outcome (hres : resolve dst sz (s.setCC cc) = .ok loc t) (hw : (writeOp loc sz 0 t).endsIn w) :
    (clearOne sz dst cc s).outcome = .next w := by
  rw [clearOne, hres]
  exact Res.outcome_of_endsIn hw

end

/-- Settles O30: the operand phase, then the flags and the write of the complement. -/
theorem complementResults : Obligations.ComplementResults :=
  ⟨fun _ _ d _ t _ hget hw => modifyOne_outcome hget (comResult_word d) (comFlags_word d t.cc) hw,
    fun _ _ d _ t _ hget hw => modifyOne_outcome hget (comResult_byte d) (comFlags_ofByte d t.cc) hw⟩

/-- Settles O31: the operand phase, then the flags and the write of `d + 1`. -/
theorem incrementResults : Obligations.IncrementResults :=
  ⟨fun _ _ d _ t _ hget hw => modifyOne_outcome hget (incResult_word d) (incFlags_word d t.cc) hw,
    fun _ _ d _ t _ hget hw => modifyOne_outcome hget (incResult_byte d) (incFlags_ofByte d t.cc) hw⟩

/-- Settles O32: the operand phase, then the flags and the write of `d - 1`. -/
theorem decrementResults : Obligations.DecrementResults :=
  ⟨fun _ _ d _ t _ hget hw => modifyOne_outcome hget (decResult_word d) (decFlags_word d t.cc) hw,
    fun _ _ d _ t _ hget hw => modifyOne_outcome hget (decResult_byte d) (decFlags_ofByte d t.cc) hw⟩

/-- Settles O33: the operand phase, then the flags of the operand. -/
theorem testResults : Obligations.TestResults :=
  ⟨fun _ _ d _ t hget => testOne_outcome hget (tstFlags_word d t.cc),
    fun _ _ d _ t hget => testOne_outcome hget (tstFlags_ofByte d t.cc)⟩

/-- Settles O29: the resolution starts from the state with the new flags; it ends in the write or in its own trap. -/
theorem clearResults : Obligations.ClearResults :=
  fun _ _ => ⟨fun _ _ _ => clearOne_outcome, fun _ => clearOne_of_traps, fun _ _ _ => clearOne_outcome,
    fun _ => clearOne_of_traps⟩

/-! ## The frames -/

section
variable {sz : Size} {dst : Operand} {s t : State} {K : CC → CC → Prop}

/-- An instruction that reads and writes its destination writes the register its specifier steps or a mode-0
destination, and stores at the address of `storedByOne`. -/
theorem modifyOne_framed {f : Word → Word} {g : Word → CC → CC} (h : (modifyOne sz dst f g s).outcome = .next t)
    (hrefl : ∀ a, K a a) (htrans : ∀ a b c, K a b → K b c → K a c) (hg : ∀ d cc, K cc (g d cc)) :
    Framed (fun r => touches dst r ∨ isDestReg dst r) K (storedByOne sz dst s) sz s t := by
  refine Res.All_outcome (modifyOne_all (framed_closed s htrans) sz dst f hg (fun _ => .inl)
    (fun hm => .inr ⟨hm, rfl⟩) (fun d a u hok => ?stored) (Framed.refl hrefl s)) h
  case stored =>
    rw [storedByOne, hok]
    exact ⟨rfl, rfl⟩

/-- CLR and CLRB store at the address of `storedByClear`, which the resolution after the flags gives. -/
theorem clearOne_framed (h : (clearOne sz dst clrFlags s).outcome = .next t) :
    Framed (fun r => touches dst r ∨ isDestReg dst r) AnyFlags (storedByClear sz dst s) sz s t := by
  refine Res.All_outcome (clearOne_all (framed_closed s AnyFlags.trans) sz dst clrFlags trivial (fun _ => .inl)
    (fun hm => .inr ⟨hm, rfl⟩) (fun a u hok => ?stored) (Framed.refl AnyFlags.refl s)) h
  case stored =>
    rw [storedByClear, hok]
    exact ⟨rfl, rfl⟩

/-- COM and COMB write every flag. -/
theorem modifyOne_kept_and_bytesKept {f : Word → Word} {g : Word → CC → CC}
    (h : (modifyOne sz dst f g s).outcome = .next t) :
    Kept (fun r => touches dst r ∨ isDestReg dst r) s t ∧ BytesKept (storedByOne sz dst s) sz s t :=
  (modifyOne_framed h AnyFlags.refl AnyFlags.trans fun _ _ => trivial).kept_and_bytesKept

end

/-- Settles O58: CLR by `clearOne_framed`, the others by `modifyOne_framed`; INC and DEC keep C, for their flags
hand the old C on. -/
theorem frameOneOperandWriters : Obligations.FrameOneOperandWriters := by
  intro dst s t W
  refine ⟨?clr, ?clrb, ?com, ?comb, ?incdec, ?incdecb⟩
  case clr => exact fun h => (clearOne_framed h).kept_and_bytesKept
  case clrb => exact fun h => (clearOne_framed h).kept_and_bytesKept
  case com => exact modifyOne_kept_and_bytesKept
  case comb => exact modifyOne_kept_and_bytesKept
  case incdec => rintro (h | h) <;> exact modifyOne_framed h SameCarry.refl SameCarry.trans fun _ _ => rfl
  case incdecb => rintro (h | h) <;> exact modifyOne_framed h SameCarry.refl SameCarry.trans fun _ _ => rfl

end Sys2Proof.Machine

/-! PROOFS. The branches (43_branches.md R153 to R169): the target as the rules' signed sum modulo 2^16, the common
sequence with that target, and each branch as that sequence with its condition on the flags. -/

namespace Sys2Proof.Machine

/-- The target in words is the target in integers, modulo 2^16 (30_encoding.md R88). -/
theorem branchTarget_eq_ofInt (pc : Word) (off : BitVec 8) :
    branchTarget pc off = BitVec.ofInt 16 (pc.toNat + 2 * off.toInt) := by
  have hpc : BitVec.ofInt 16 pc.toNat = pc := by rw [BitVec.ofInt_natCast, BitVec.ofNat_toNat, BitVec.setWidth_eq]
  calc branchTarget pc off
    _ = BitVec.ofInt 16 pc.toNat + BitVec.ofInt 16 2 * BitVec.ofInt 16 off.toInt := by rw [hpc]; rfl
    _ = BitVec.ofInt 16 (pc.toNat + 2 * off.toInt) := by rw [← BitVec.ofInt_mul, ← BitVec.ofInt_add]

/-- The common sequence of the branches (R153), its target in integers. -/
theorem branchIf_eq_next_setX_pc (taken : Bool) (off : BitVec 8) (s : State) : branchIf taken off s =
    .next (if taken then s.setX .pc (BitVec.ofInt 16 (s.pc.toNat + 2 * off.toInt)) else s) := by
  rw [branchIf, ← branchTarget_eq_ofInt]
  rfl

/-- Settles O35: each branch is the common sequence with its flag or the negation of its flag. -/
theorem flagBranches : Obligations.FlagBranches := by
  intro off s
  refine ⟨?br, ?bne, ?beq, ?bpl, ?bmi, ?bvc, ?bvs, ?bcc, ?bcs⟩
  case br => exact branchIf_eq_next_setX_pc true off s
  case bne => exact branchIf_eq_next_setX_pc (!s.cc.z) off s
  case beq => exact branchIf_eq_next_setX_pc s.cc.z off s
  case bpl => exact branchIf_eq_next_setX_pc (!s.cc.n) off s
  case bmi => exact branchIf_eq_next_setX_pc s.cc.n off s
  case bvc => exact branchIf_eq_next_setX_pc (!s.cc.v) off s
  case bvs => exact branchIf_eq_next_setX_pc s.cc.v off s
  case bcc => exact branchIf_eq_next_setX_pc (!s.cc.c) off s
  case bcs => exact branchIf_eq_next_setX_pc s.cc.c off s

/-- Settles O36: each branch is the common sequence with its order on the flags or the negation of that order. -/
theorem orderBranches : Obligations.OrderBranches := by
  intro off s
  refine ⟨?bge, ?blt, ?bgt, ?ble, ?bhi, ?blos⟩
  case bge => exact branchIf_eq_next_setX_pc (!s.cc.less) off s
  case blt => exact branchIf_eq_next_setX_pc s.cc.less off s
  case bgt => exact branchIf_eq_next_setX_pc (!s.cc.lessEqual) off s
  case ble => exact branchIf_eq_next_setX_pc s.cc.lessEqual off s
  case bhi => exact branchIf_eq_next_setX_pc (!s.cc.lowerSame) off s
  case blos => exact branchIf_eq_next_setX_pc s.cc.lowerSame off s

end Sys2Proof.Machine

/-! PROOFS. Subroutine call and return (44_subroutine.md R170 to R172), and the frames of the four instructions that
work on the stack (46_system.md R184, R185): what a push leaves of the registers, what a completed call leaves for its
return, and what the two pops of a return from a trap can end in. -/

namespace Sys2Proof.Machine

/-! ## JSR and RTS -/

section
variable {s s1 s3 t w : State} {dst : Operand} {a ea v : Word} {sz : Size}

/-- A store changes no register, whether it completes or traps. -/
theorem memWrite_ok_x (h : s.memWrite a sz v = .ok () t) (q : Reg) : t.x q = s.x q := by
  obtain ⟨-, ⟨-, rfl⟩ | ⟨-, b, -, rfl⟩⟩ := memWrite_ok h
  · rw [State.noteStore_x, State.coreWrite_x]
  · rw [State.noteStore_x, State.logCall_x]

theorem memWrite_trapped_x (h : s.memWrite a sz v = .trapped t) (q : Reg) : t.x q = s.x q := by
  obtain ⟨l, k, rfl⟩ := memWrite_trapped h
  exact State.x_congr rfl rfl rfl q

/-- A mode-0 target is illegal, and its resolution has no effect (R170). -/
theorem exec_jsr_of_register (r : Reg) (s : State) (h : dst.mode = .register) :
    exec (.jsr r dst) s = .next s.raiseIllegal := by
  show execJsr r dst s = _
  rw [execJsr, resolve_register h]
  rfl

/-- After the resolution comes the push of R, then the link and the jump (R170). -/
theorem exec_jsr_of_resolve (r : Reg) (h : resolve dst .word s = .ok (.mem ea) s1) : exec (.jsr r dst) s =
    ((s1.push (s1.x r)).bind fun _ u => .ok () ((u.setX r u.pc).setX .pc ea)).outcome := by
  show execJsr r dst s = _
  rw [execJsr, h]
  rfl

/-- The link is the `pc` that the resolution left, for the push changes no register but `sp`. -/
theorem exec_jsr_of_push_ok (r : Reg) (h : resolve dst .word s = .ok (.mem ea) s1)
    (hpush : s1.push (s1.x r) = .ok () s3) :
    exec (.jsr r dst) s = .next ((s3.setX r (s1.x .pc)).setX .pc ea) := by
  have hpc : s3.pc = s1.x .pc := memWrite_ok_x hpush .pc
  rw [exec_jsr_of_resolve r h, hpush, ← hpc]
  rfl

theorem exec_jsr_of_push_trapped (r : Reg) (h : resolve dst .word s = .ok (.mem ea) s1)
    (hpush : s1.push (s1.x r) = .trapped w) : exec (.jsr r dst) s = .next w := by
  rw [exec_jsr_of_resolve r h, hpush]
  rfl

end

/-- Settles O38: the illegal form, the resolution's trap, and the push, which goes on or traps; its trap leaves every
register of the decremented state. -/
theorem jsrResult : Obligations.JsrResult := by
  refine fun r dst s => ⟨exec_jsr_of_register r s, fun w => exec_jsr_of_traps r, fun ea s1 hres => ?_⟩
  intro s2
  refine ⟨fun s3 => exec_jsr_of_push_ok r hres, fun w hw => ?_⟩
  have hx (q : Reg) : w.x q = s2.x q := memWrite_trapped_x hw q
  exact ⟨exec_jsr_of_push_trapped r hres hw, (hx .sp).trans (s1.setX_x_same .sp _),
    (hx .pc).trans (s1.setX_x_other (by decide) _), fun hr => (hx r).trans (s1.setX_x_other hr _)⟩

/-- After the read `pc` takes R, `sp` steps and R takes the word, in that order (R171). -/
theorem exec_rts_of_memRead_ok (r : Reg) {s s1 : State} {w : Word} (h : s.memRead (s.x .sp) .word = .ok w s1) :
    exec (.rts r) s = .next (((s1.setX .pc (s1.x r)).setX .sp ((s1.setX .pc (s1.x r)).x .sp + 2)).setX r w) := by
  show execRts r s = _
  rw [execRts, ← State.x_sp, h]
  rfl

/-- The read is the first side effect, so its trap is all that happens (R171). -/
theorem exec_rts_of_memRead_trapped (r : Reg) {s u : State} (h : s.memRead (s.x .sp) .word = .trapped u) :
    exec (.rts r) s = .next u := by
  show execRts r s = _
  rw [execRts, ← State.x_sp, h]
  rfl

/-- Settles O39: the read first; a load that traps changes nothing but the record and the log. -/
theorem rtsResult : Obligations.RtsResult := by
  refine fun r s => ⟨fun w s1 => exec_rts_of_memRead_ok r, fun u hu => ⟨exec_rts_of_memRead_trapped r hu, ?_⟩⟩
  obtain ⟨l, k, rfl⟩ := memRead_trapped hu
  rfl

/-! ## The return undoes the call -/

@[simp] theorem State.setX_coreRead (s : State) (r : Reg) (v a : Word) (sz : Size) :
    (s.setX r v).coreRead a sz = s.coreRead a sz := by
  cases sz <;> simp only [State.coreRead, State.setX_core]

/-- A push to core memory goes on, and its word is read back below the old stack pointer. -/
theorem push_of_inCore {s : State} (v : Word) (hwf : s.core.wf) (heven : (s.x .sp - 2).getLsbD 0 = false)
    (hcore : s.inCore (s.x .sp - 2)) :
    ∃ t, s.push v = .ok () t ∧ t.x .sp = s.x .sp - 2 ∧ t.params = s.params ∧
      t.coreRead (s.x .sp - 2) .word = v := by
  refine ⟨_, memWrite_core (not_misaligned_of_even fun _ => heven) hcore, ?sp, ?params, ?word⟩
  case sp => exact (State.noteStore_x _ _ .sp).trans (State.coreWrite_x _ _ _ _ .sp)
  case params => exact (State.noteStore_params _ _).trans (State.coreWrite_params _ _ _ _)
  case word => exact (State.noteStore_coreRead _ _ _).trans (State.coreRead_coreWrite _ v .word hwf)

/-- What a call that pushes to core memory leaves for its return: the stack pointer at the pushed word, the return
address in R, and R's old value in that word. -/
theorem exec_jsr_links {r : Reg} {dst : Operand} {s s1 u : State} {ea : Word} (hr : r ≠ .sp) (hwf : s.core.wf)
    (hres : resolve dst .word s = .ok (.mem ea) s1) (heven : (s1.x .sp - 2).getLsbD 0 = false)
    (hcore : s1.inCore (s1.x .sp - 2)) (hu : exec (.jsr r dst) s = .next u) :
    u.x .sp = s1.x .sp - 2 ∧ (r ≠ .pc → u.x r = s1.x .pc) ∧ u.params = s1.params ∧
      u.coreRead (s1.x .sp - 2) .word = s1.x r := by
  obtain ⟨-, hsame, -⟩ := Res.All_of_ok (resolve_leaves .word (fun _ => id) (OperandTrapLeaves.refl _ s)) hres
  obtain ⟨s3, hpush, hsp, hparams, hword⟩ := push_of_inCore (s1.x r) (hsame.symm ▸ hwf) heven hcore
  rw [exec_jsr_of_push_ok r hres hpush] at hu
  cases hu
  refine ⟨?sp, fun hpc => ?link, by simpa using hparams, by simpa using hword⟩
  case sp => rw [State.setX_x_other _ (by decide), State.setX_x_other _ hr.symm, hsp]
  case link => rw [State.setX_x_other _ hpc, State.setX_x_same]

/-- Settles O40: the return reads the word that the call pushed (`exec_jsr_links`). With R = PC that word is the return
address itself. -/
theorem rtsUndoesJsr : Obligations.RtsUndoesJsr := by
  intro r dst s s1 u m ea hr hwf hres heven hcore hu hsp hlink hparams hlow hhigh
  obtain ⟨husp, hulink, huparams, hword⟩ := exec_jsr_links hr hwf hres heven hcore hu
  rw [husp] at hsp hlow hhigh
  have hmword : m.coreRead (s1.x .sp - 2) .word = s1.x r := by
    rw [← hword, State.coreRead, State.coreRead, hlow, hhigh]
  have hmcore : m.inCore (m.x .sp) := by
    rwa [hsp, State.inCore, hparams, huparams]
  have hread : m.memRead (m.x .sp) .word = .ok (s1.x r) m := by
    rw [memRead_core (not_misaligned_of_even fun _ => hsp ▸ heven) hmcore, hsp, hmword]
  refine ⟨_, exec_rts_of_memRead_ok r hread, ?sp, ?pc, fun _ => State.setX_x_same _ r _⟩
  case sp =>
    rw [State.setX_x_other _ hr.symm, State.setX_x_same, State.setX_x_other _ (by decide), hsp, BitVec.sub_add_cancel]
  case pc =>
    by_cases hpc : r = .pc
    · subst hpc
      exact State.setX_x_same _ .pc _
    · rw [State.setX_x_other _ (Ne.symm hpc), State.setX_x_other _ (by decide), State.setX_x_same, hlink hpc,
        hulink hpc]

/-! ## The frames of JSR and RTS -/

section
variable {W : Reg → Prop} {stored : Option Word} {sz : Size} {s t : State}

theorem Framed.psw_eq (h : Framed W Eq stored sz s t) : t.psw = s.psw := by
  obtain ⟨⟨-, ⟨hhigh, -⟩, -⟩, hcc, -⟩ := h
  calc t.psw
    _ = t.psw &&& 0o177760 ||| t.cc.toWord := (psw_split t.psw).symm
    _ = s.psw &&& 0o177760 ||| s.cc.toWord := by rw [hhigh, hcc]
    _ = s.psw := psw_split s.psw

/-- A frame that lets no condition code change keeps the whole PSW. -/
theorem Framed.kept_and_psw_and_bytesKept (h : Framed W Eq stored sz s t) :
    Kept W s t ∧ t.psw = s.psw ∧ BytesKept stored sz s t :=
  ⟨h.1, h.psw_eq, h.2.2⟩

theorem sameFlags_closed (W : Reg → Prop) (stored : Option Word) (s : State) :
    Closed W (fun a z => stored = some a ∧ z = .word) Eq True (Framed W Eq stored .word s) :=
  framed_closed s fun _ _ _ => Eq.trans

/-- JSR writes the registers the target steps, `sp`, R and `pc`, and stores at the address of `storedByJsr`; a mode-0
target writes the trap record only. -/
theorem exec_jsr_framed {r : Reg} {dst : Operand} (h : exec (.jsr r dst) s = .next t) :
    Framed (fun q => touches dst q ∨ q = r ∨ q = .sp ∨ q = .pc) Eq (storedByJsr dst s) .word s t := by
  have hP := sameFlags_closed (fun q => touches dst q ∨ q = r ∨ q = .sp ∨ q = .pc) (storedByJsr dst s) s
  refine Res.All_outcome (Res.All_bind (resolve_all hP dst .word (fun _ => .inl) (Framed.refl (fun _ => rfl) s))
    fun loc u hres hu => ?_) h
  cases loc with
  | reg q => exact ⟨hu.1.raise _ _, hu.2⟩
  | mem ea =>
    have hstored : storedByJsr dst s = some (u.sp - 2) := by
      rw [storedByJsr, hres]
      rfl
    exact Res.All_bind (push_all hP (u.x r) (.inr (.inr (.inl rfl))) ⟨hstored, rfl⟩ hu) fun _ w _ hw =>
      hP.setX _ .pc ea (.inr (.inr (.inr rfl))) (hP.setX w r w.pc (.inr (.inl rfl)) hw)

/-- RTS writes `pc`, `sp` and R, and stores nothing. -/
theorem exec_rts_framed {r : Reg} (h : exec (.rts r) s = .next t) :
    Framed (fun q => q = r ∨ q = .sp ∨ q = .pc) Eq none .word s t := by
  have hP := sameFlags_closed (fun q => q = r ∨ q = .sp ∨ q = .pc) none s
  refine Res.All_outcome (Res.All_bind (memRead_all hP s.sp .word (Framed.refl (fun _ => rfl) s))
    fun w u _ hu => ?_) h
  exact hP.setX _ r w (.inl rfl) (hP.setX _ .sp _ (.inr (.inl rfl)) (hP.setX u .pc _ (.inr (.inr rfl)) hu))

end

/-! ## The return from a trap -/

/-- What the pops of RTI and RTT write before the PSW: `pc`, `sp` and the log of device calls. -/
def State.popped (s : State) (pc sp : Word) (l : List DeviceCall) : State :=
  { s with pc := pc, sp := sp, deviceLog := s.deviceLog ++ l }

/-- All that RTI and RTT can end in (46_system.md R184): a fault's record with some of the pops done, or both pops and
WritePSW. -/
def State.ReturnsTo (s t : State) : Prop :=
  ∃ pc sp l, (∃ k a, t = (s.popped pc sp l).raise (.fault k) a) ∨
    s.kernel ∧ ∃ v, t = (s.popped pc sp l).writePSW v

/-- A read followed by updates that raise nothing traps in the read. -/
theorem Res.eq_trapped_of_bind_ok {r : Res Word} {f : Word → State → State} {t : State}
    (h : (r.bind fun v u => .ok () (f v u)) = .trapped t) : r = .trapped t := by
  cases r with
  | ok v u => cases h
  | trapped u => cases h; rfl
  | stuck e => cases h

section
variable {s t : State}

theorem popPc_ok (h : s.popPc = .ok () t) : ∃ w l, t = s.popped w (s.sp + 2) l := by
  obtain ⟨w, u, hread, hk⟩ := Res.bind_eq_ok h
  obtain ⟨l, rfl⟩ := memRead_ok hread
  cases hk
  exact ⟨w, l, rfl⟩

theorem popPsw_ok (h : s.popPsw = .ok () t) : ∃ v l, t = (s.popped s.pc (s.sp + 2) l).writePSW v := by
  obtain ⟨v, u, hread, hk⟩ := Res.bind_eq_ok h
  obtain ⟨l, rfl⟩ := memRead_ok hread
  cases hk
  exact ⟨v, l, rfl⟩

/-- Either pop traps in its read, which pops nothing. -/
theorem pop_trapped {f : Word → State → State}
    (h : ((s.memRead s.sp .word).bind fun v u => .ok () (f v u)) = .trapped t) :
    ∃ l k a, t = (s.popped s.pc s.sp l).raise (.fault k) a := by
  obtain ⟨l, k, rfl⟩ := memRead_trapped (Res.eq_trapped_of_bind_ok h)
  exact ⟨l, k, _, rfl⟩

theorem State.popped_popped (s : State) (pc sp pc' sp' : Word) (l m : List DeviceCall) :
    (s.popped pc sp l).popped pc' sp' m = s.popped pc' sp' (l ++ m) := by
  simp only [State.popped, List.append_assoc]

theorem returnFromTrap_returnsTo (hk : s.kernel) (h : s.returnFromTrap.outcome = .next t) : s.ReturnsTo t := by
  cases hpc : s.popPc with
  | ok _ u =>
    obtain ⟨w, l, rfl⟩ := popPc_ok hpc
    rw [State.returnFromTrap, hpc] at h
    obtain hpsw | hpsw := Res.outcome_eq_next h
    · obtain ⟨v, m, rfl⟩ := popPsw_ok hpsw
      exact ⟨_, _, _, .inr ⟨hk, v, by rw [State.popped_popped]⟩⟩
    · obtain ⟨m, k, a, rfl⟩ := pop_trapped hpsw
      exact ⟨_, _, _, .inl ⟨k, a, by rw [State.popped_popped]⟩⟩
  | trapped u =>
    obtain ⟨l, k, a, rfl⟩ := pop_trapped hpc
    rw [State.returnFromTrap, hpc] at h
    cases h
    exact ⟨_, _, _, .inl ⟨k, a, rfl⟩⟩
  | stuck f =>
    rw [State.returnFromTrap, hpc] at h
    cases h

theorem exec_rti_of_kernel (h : s.kernel) : exec .rti s = s.returnFromTrap.outcome := if_pos h

theorem exec_rti_of_not_kernel (h : ¬ s.kernel) : exec .rti s = .next s.raiseIllegal := if_neg h

/-- RTT is the same operation as RTI (R185). -/
theorem exec_rtt_eq_exec_rti (s : State) : exec .rtt s = exec .rti s := rfl

/-- Outside kernel mode nothing is popped, and ILLEGAL_INSTRUCTION is raised. -/
theorem exec_rti_returnsTo (h : exec .rti s = .next t) : s.ReturnsTo t := by
  by_cases hk : s.kernel
  · rw [exec_rti_of_kernel hk] at h
    exact returnFromTrap_returnsTo hk h
  · rw [exec_rti_of_not_kernel hk] at h
    cases h
    refine ⟨s.pc, s.sp, [], .inl ⟨.illegalInstruction, none, ?_⟩⟩
    rw [State.popped, List.append_nil]
    rfl

/-- WritePSW leaves the two banks or swaps them (10_state.md R35). -/
theorem State.writePSW_banks (s : State) (v : Word) :
    (s.writePSW v).live = s.live ∧ (s.writePSW v).shadow = s.shadow ∨
      (s.writePSW v).live = s.shadow ∧ (s.writePSW v).shadow = s.live := by
  rw [State.writePSW_live, State.writePSW_shadow]
  by_cases hbank : bankOf v ≠ bankOf s.psw
  · exact .inr ⟨if_pos hbank, if_pos hbank⟩
  · exact .inl ⟨if_neg hbank, if_neg hbank⟩

/-- WritePSW saves the stack pointer in the slot of the mode it leaves, and nowhere else. -/
theorem State.writePSW_spslot_get (s : State) (v : Word) {m : BitVec 2} (hm : m ≠ modeOf s.psw) :
    (s.writePSW v).spslot.get m = s.spslot.get m := by
  rw [State.writePSW_spslot]
  split
  · exact SpSlots.get_set_other s.spslot hm s.sp
  · rfl

end

/-- Settles O60: JSR and RTS by their frames; RTI and RTT, which are one operation, by what `ReturnsTo` lets them end
in: a fault leaves the banks and the slots, and WritePSW from kernel mode writes the kernel's slot only. -/
theorem frameStackInstructions : Obligations.FrameStackInstructions := by
  refine ⟨fun r dst s t h => (exec_jsr_framed h).kept_and_psw_and_bytesKept,
    fun r s t h => (exec_rts_framed h).kept_and_psw_and_bytesKept, fun s t h => ?_⟩
  rw [exec_rtt_eq_exec_rti, or_self] at h
  obtain ⟨pc, sp, l, ⟨k, a, rfl⟩ | ⟨hkernel, v, rfl⟩⟩ := exec_rti_returnsTo h
  · exact ⟨rfl, rfl, rfl, rfl, rfl, List.prefix_append _ l, .inr ⟨k, a, rfl⟩, .inl ⟨rfl, rfl⟩, fun _ _ => rfl⟩
  · refine ⟨State.writePSW_core _ v, State.writePSW_params _ v, State.writePSW_devices _ v, State.writePSW_latch _ v,
      State.writePSW_thunks _ v, ?log, .inl (State.writePSW_trap _ v), (s.popped pc sp l).writePSW_banks v,
      fun m hm => (s.popped pc sp l).writePSW_spslot_get v (hkernel.symm ▸ hm)⟩
    case log =>
      rw [State.writePSW_deviceLog]
      exact List.prefix_append _ l

end Sys2Proof.Machine

/-! PROOFS. ASH and MUL (45_register_ops.md R174 to R176): the shift and its condition codes as R175 writes them, the
product, its condition codes and its register writes as R176 does, and the frames of both. -/

namespace Sys2Proof.Machine

/-! ## ASH -/

section
variable (v cnt : Word)

/-- The count is the source's low six bits; bits 15:6 are ignored (R175). -/
theorem ashCount_eq : ashCount cnt = (cnt.extractLsb' 0 6).toInt := by
  rw [ashCount, BitVec.setWidth_eq_extractLsb' (by decide)]

theorem ashFlags_eq (q : Shifted) :
    ashFlags q = { n := q.r.getLsbD 15, z := decide (q.r = 0), v := q.ov, c := q.c } := by
  rw [ashFlags, signOf_word, isZero_word]

theorem ashShift_zero : ashShift v 0 = { r := v, c := false, ov := false } := rfl

theorem ashShift_of_pos {n : Int} (h : 0 < n) : ashShift v n = ashLeft v n.toNat := by
  rw [ashShift, if_neg h.ne', if_pos h]

theorem ashShift_of_neg {n : Int} (h : n < 0) : ashShift v n = ashRight v (-n).toNat := by
  rw [ashShift, if_neg h.ne, if_neg h.not_gt]

theorem ashLeft_r (n : Nat) : (ashLeft v n).r = BitVec.ofNat 16 (v.toNat <<< n) := by
  rw [Nat.shiftLeft_eq, ashLeft]

theorem ashLeft_c (n : Nat) : (ashLeft v n).c = (v.toNat <<< n).testBit 16 := by
  rw [Nat.shiftLeft_eq, ashLeft]

/-- The overflow of a left shift: a bit shifted out, bits 16 to 15 + n of `v * 2^n`, disagrees with the final sign. -/
theorem ashLeft_ov_iff (n : Nat) : (ashLeft v n).ov = true ↔
    ∃ k : Nat, 16 ≤ k ∧ k ≤ 15 + n ∧ (v.toNat <<< n).testBit k ≠ (ashLeft v n).r.getLsbD 15 := by
  simp only [ashLeft, Nat.shiftLeft_eq, List.any_eq_true, List.mem_range, bne_iff_ne]
  constructor
  · rintro ⟨i, hi, hbit⟩
    exact ⟨16 + i, by omega, by omega, hbit⟩
  · rintro ⟨k, hlo, hhi, hbit⟩
    exact ⟨k - 16, by omega, by rwa [Nat.add_sub_cancel' hlo]⟩

/-- The model's division by a power of two rounds down. -/
theorem ediv_two_pow_eq_fdiv (w : Int) (m : Nat) : w / 2 ^ m = w.fdiv (2 ^ m) :=
  (Int.fdiv_eq_ediv_of_nonneg w (by positivity)).symm

theorem ashRight_r (m : Nat) : (ashRight v m).r = BitVec.ofInt 16 (v.toInt.fdiv (2 ^ m)) := by
  rw [ashRight, ediv_two_pow_eq_fdiv]

theorem ashRight_c_iff (m : Nat) : (ashRight v m).c = true ↔ v.toInt.fdiv (2 ^ (m - 1)) % 2 = 1 := by
  rw [← ediv_two_pow_eq_fdiv, ashRight, beq_iff_eq]

end

/-- After the source's read the register is read, the flags are written, then the register (R174, R175). -/
theorem exec_ash_of_gets (r : Reg) {src : Operand} {s t : State} {cnt : Word} {loc : Loc}
    (hget : GetsOperand .word src s cnt loc t) : exec (.ash r src) s =
    .next ((t.setCC (ashFlags (ashShift (t.x r) (ashCount cnt)))).setX r (ashShift (t.x r) (ashCount cnt)).r) := by
  show execAsh r src s = _
  rw [execAsh, readOperand_of_gets hget]
  rfl

/-- Settles O41: `exec_ash_of_gets`, and the shift by the sign of the count. -/
theorem ashResult : Obligations.AshResult := by
  intro r src s cnt loc t hget n v
  refine ⟨(ashShift v n).r, (ashShift v n).c, (ashShift v n).ov, ?exec, fun hzero => ?none, fun hpos => ?left,
    fun hneg => ?right⟩
  case exec => rw [← ashFlags_eq, exec_ash_of_gets r hget, ashCount_eq]
  case none =>
    rw [hzero, ashShift_zero]
    exact ⟨rfl, rfl, rfl⟩
  case left =>
    rw [ashShift_of_pos v hpos]
    exact ⟨ashLeft_r v _, ashLeft_c v _, ashLeft_ov_iff v _⟩
  case right =>
    rw [ashShift_of_neg v hneg]
    exact ⟨ashRight_r v _, ashRight_c_iff v _, rfl⟩

/-! ## MUL -/

/-- `MUL_C` under each bound, as the propositions of R176. -/
theorem mulCarry_eq (bound : MulCBound) (p : Int) : mulCarry bound p =
    match bound with
    | .fits16 => decide (¬(-2 ^ 15 ≤ p ∧ p ≤ 2 ^ 15 - 1))
    | .handbook => decide (p < -2 ^ 15 ∨ p ≥ 2 ^ 15 - 1) := by
  cases bound with
  | fits16 => simp only [mulCarry, decide_not, Bool.decide_and]
  | handbook => simp only [mulCarry, Bool.decide_or]

/-- A product of two signed words fits a signed 32-bit number (R176). -/
theorem toInt_ofInt_mulProduct (a b : Word) : (BitVec.ofInt 32 (mulProduct a b)).toInt = mulProduct a b := by
  have hle : mulProduct a b ≤ 2 ^ 30 := BitVec.toInt_mul_toInt_le
  have hge : -2 ^ 30 ≤ mulProduct a b := BitVec.le_toInt_mul_toInt
  exact BitVec.toInt_ofInt_eq_self (by decide) (by omega) (by omega)

theorem State.setProduct_of_pair (s : State) {r r' : Reg} (h : pairOf r = some r') (p : Int) :
    s.setProduct r p = (s.setX r (mulHigh p)).setX r' (mulLow p) := by
  rw [State.setProduct, h]

theorem State.setProduct_of_no_pair (s : State) {r : Reg} (h : pairOf r = none) (p : Int) :
    s.setProduct r p = s.setX r (mulLow p) := by
  rw [State.setProduct, h]

/-- After the source's read the register is read, the flags are written, then the product (R174, R176). -/
theorem exec_mul_of_gets (r : Reg) {src : Operand} {s t : State} {m : Word} {loc : Loc}
    (hget : GetsOperand .word src s m loc t) : exec (.mul r src) s =
    .next ((t.setCC (mulFlags t.params.mulCBound (mulProduct (t.x r) m))).setProduct r (mulProduct (t.x r) m)) := by
  show execMul r src s = _
  rw [execMul, readOperand_of_gets hget]
  rfl

/-- Settles O42: `exec_mul_of_gets`, with the writes of an even and of an odd register; the product fits 32 bits. -/
theorem mulResult : Obligations.MulResult := by
  intro r src s m loc t hget p whole carry u
  have hexec : exec (.mul r src) s = .next (u.setProduct r p) := by
    rw [exec_mul_of_gets r hget, mulFlags, mulCarry_eq]
    rfl
  refine ⟨fun hi lo hmem => ?even, fun hmem => ?odd, toInt_ofInt_mulProduct (t.x r) m⟩
  case even =>
    have hpairs : ∀ x ∈ [(Reg.r0, Reg.r0, Reg.r1), (.r2, .r2, .r3), (.r4, .r4, .r5), (.sp, .sp, .pc)],
        x.2.1 = x.1 ∧ pairOf x.1 = some x.2.2 := by decide
    obtain ⟨hhi, hlo⟩ : hi = r ∧ pairOf r = some lo := hpairs _ hmem
    subst hhi
    rw [hexec, u.setProduct_of_pair hlo]
    rfl
  case odd =>
    have hsingle : ∀ q ∈ [Reg.r1, .r3, .r5, .pc], pairOf q = none := by decide
    rw [hexec, u.setProduct_of_no_pair (hsingle r hmem)]
    rfl

/-! ## The frames -/

section
variable {r : Reg} {src : Operand} {s t : State}

theorem anyFlags_closed (W : Reg → Prop) (s : State) :
    Closed W (fun a z => none = some a ∧ z = .word) AnyFlags True (Framed W AnyFlags none .word s) :=
  framed_closed s AnyFlags.trans

/-- ASH writes the register the source steps and R, and stores nothing. -/
theorem exec_ash_framed (h : exec (.ash r src) s = .next t) :
    Framed (fun q => touches src q ∨ q = r) AnyFlags none .word s t := by
  have hP := anyFlags_closed (fun q => touches src q ∨ q = r) s
  refine Res.All_outcome (Res.All_bind (readOperand_all hP src .word (fun _ => .inl) (Framed.refl AnyFlags.refl s))
    fun _ u _ hu => ?_) h
  exact hP.setX _ r _ (.inr rfl) (hP.setCC u _ trivial hu)

/-- MUL writes the register the source steps and R with its pair, and stores nothing. -/
theorem exec_mul_framed (h : exec (.mul r src) s = .next t) :
    Framed (fun q => touches src q ∨ q = r ∨ pairOf r = some q) AnyFlags none .word s t := by
  have hP := anyFlags_closed (fun q => touches src q ∨ q = r ∨ pairOf r = some q) s
  refine Res.All_outcome (Res.All_bind (readOperand_all hP src .word (fun _ => .inl) (Framed.refl AnyFlags.refl s))
    fun _ u _ hu => ?_) h
  exact setProduct_all hP r _ (.inr (.inl rfl)) (fun _ hq => .inr (.inr hq)) (hP.setCC u _ trivial hu)

end

/-- Settles O59: `exec_ash_framed` and `exec_mul_framed`, without the condition codes. -/
theorem frameRegisterOps : Obligations.FrameRegisterOps :=
  fun _ _ _ _ => ⟨fun h => (exec_ash_framed h).kept_and_bytesKept, fun h => (exec_mul_framed h).kept_and_bytesKept⟩

end Sys2Proof.Machine

/-! PROOFS. CCODE, HALT, WAIT, RTI and RTT (46_system.md R181 to R185): what each does, and that of all the updates of a
step only WritePSW behind RTI and RTT reaches the control state. -/

namespace Sys2Proof.Machine

/-! ## The updates that a step makes to the control state -/

/-- A bind that traps: its first part did, or it went on and the second did. -/
theorem Res.bind_eq_trapped {α β : Type} {r : Res α} {k : α → State → Res β} {t : State}
    (h : r.bind k = .trapped t) : r = .trapped t ∨ ∃ a u, r = .ok a u ∧ k a u = .trapped t := by
  cases r with
  | ok a u => exact .inr ⟨a, u, rfl, h⟩
  | trapped u => cases h; exact .inl rfl
  | stuck f => cases h

/-- A fetch traps in its read. -/
theorem fetch_trapped {s t : State} (h : s.fetch = .trapped t) : s.memRead s.pc .word = .trapped t := by
  obtain hread | ⟨w, u, -, hk⟩ := Res.bind_eq_trapped h
  · exact hread
  · cases hk

/-- All that an opcode fetch that traps does (70_reset_and_hazards.md R214). -/
theorem fetchOpcode_trapped {s t : State} (h : s.fetchOpcode = .trapped t) :
    ∃ l k, t = { s with
      latch := { instAddr := s.pc, opcode := none }, deviceLog := s.deviceLog ++ l }.raise (.fault k) (some s.pc) := by
  obtain hfetch | ⟨w, u, -, hk⟩ := Res.bind_eq_trapped h
  · exact memRead_trapped (fetch_trapped hfetch)
  · cases hk

/-- No update but a whole-word write of the PSW reaches what `Kept` names, whatever registers and bytes it writes. -/
theorem kept_closed (s : State) :
    Closed (fun _ => True) (fun _ _ => True) (fun _ _ => True) True (Kept (fun _ => True) s) where
  setX _ _ v hr h := h.setX hr v
  setCC _ cc _ h := h.setCC cc
  raiseOdd _ _ _ h := h.raise _ _
  raiseNone _ _ _ _ h := h.raise _ _
  raiseDevice _ k _ _ _ _ h := h.raise k _
  logCall _ _ _ _ _ _ _ h := h.logCall _
  coreWrite _ _ sz _ _ _ _ h := by cases sz <;> exact h.core _
  noteStore _ a h := h.noteStore a
  stuck _ _ _ _ _ _ := trivial

/-- The device bindings and the parameters are kept; PSW bits 15:4, the shadow bank and the stored stack pointers are
kept too, unless `R` and the machine is in kernel mode. -/
def ControlKeptUnless (R : Prop) (s t : State) : Prop :=
  t.devices = s.devices ∧ t.params = s.params ∧
    (t.psw &&& 0o177760 = s.psw &&& 0o177760 ∧ t.shadow = s.shadow ∧ t.spslot = s.spslot ∨ s.kernel ∧ R)

section
variable {R R' : Prop} {s t : State}

/-- The trap record, the latch and the log are no part of it, so this serves for a raised trap and for a fetch too. -/
theorem ControlKeptUnless.refl (R : Prop) (s : State) : ControlKeptUnless R s s := ⟨rfl, rfl, .inl ⟨rfl, rfl, rfl⟩⟩

theorem ControlKeptUnless.imp (h : ControlKeptUnless R s t) (hR : R → R') : ControlKeptUnless R' s t := by
  obtain ⟨hdevices, hparams, hcontrol⟩ := h
  exact ⟨hdevices, hparams, hcontrol.imp_right (And.imp_right hR)⟩

theorem Kept.controlKeptUnless {W : Reg → Prop} (h : Kept W s t) (R : Prop) : ControlKeptUnless R s t := by
  obtain ⟨-, ⟨hpsw, hshadow, hspslot, hparams, hdevices, -⟩, -⟩ := h
  exact ⟨hdevices, hparams, .inl ⟨hpsw, hshadow, hspslot⟩⟩

/-- A fault in a pop leaves the control state; WritePSW is reached in kernel mode only. -/
theorem State.ReturnsTo.controlKeptUnless (h : s.ReturnsTo t) (hR : R) : ControlKeptUnless R s t := by
  obtain ⟨pc, sp, l, ⟨k, a, rfl⟩ | ⟨hkernel, v, rfl⟩⟩ := h
  · exact ⟨rfl, rfl, .inl ⟨rfl, rfl, rfl⟩⟩
  · exact ⟨State.writePSW_devices _ v, State.writePSW_params _ v, .inr ⟨hkernel, hR⟩⟩

theorem exec_halt_of_kernel (h : s.kernel) : exec .halt s = .next (s.raise .halt none) := if_pos h

theorem exec_halt_of_not_kernel (h : ¬ s.kernel) : exec .halt s = .next s.raiseIllegal := if_neg h

/-- HALT raises a trap in every mode. -/
theorem exec_halt_eq_raise (s : State) : ∃ k, exec .halt s = .next (s.raise k none) := by
  by_cases h : s.kernel
  · exact ⟨_, exec_halt_of_kernel h⟩
  · exact ⟨_, exec_halt_of_not_kernel h⟩

theorem exec_controlKeptUnless {i : Instr} (h : exec i s = .next t) :
    ControlKeptUnless (i = .rti ∨ i = .rtt) s t := by
  by_cases hhalt : i = .halt
  · obtain ⟨k, hk⟩ := exec_halt_eq_raise s
    subst hhalt
    cases hk.symm.trans h
    exact .refl _ s
  by_cases hwait : i = .wait
  · subst hwait
    cases h
    exact .refl _ s
  by_cases hrti : i = .rti
  · subst hrti
    exact (exec_rti_returnsTo h).controlKeptUnless (.inl rfl)
  by_cases hrtt : i = .rtt
  · subst hrtt
    exact (exec_rti_returnsTo (exec_rtt_eq_exec_rti s ▸ h)).controlKeptUnless (.inr rfl)
  obtain ⟨r, he, hr⟩ := exec_all (kept_closed s) (fun _ _ hu => hu.raise _ _) hhalt hwait hrti hrtt (Kept.refl s)
  exact (Res.All_outcome hr (he ▸ h)).controlKeptUnless _

/-- The words of RTI and RTT are their encodings, for only these decode to them. -/
theorem execWord_controlKeptUnless {w : Word} (h : execWord w s = .next t) :
    ControlKeptUnless (w = 0o000002 ∨ w = 0o000006) s t := by
  unfold execWord at h
  split at h
  · rename_i i hi
    have hw : encode i = w := encodeDecodeAgree w i hi
    refine (exec_controlKeptUnless h).imp (Or.imp ?rti ?rtt)
    case rti => rintro rfl; exact hw.symm
    case rtt => rintro rfl; exact hw.symm
  · cases h
    exact .refl _ s

/-- Neither the opcode fetch nor the note of the word executed reaches the control state. -/
theorem step_controlKeptUnless (h : step s = .next t) :
    ControlKeptUnless (∃ w u, s.fetchOpcode = .ok w u ∧ (w = 0o000002 ∨ w = 0o000006)) s t := by
  cases htrap : s.trap with
  | some r =>
    rw [step_of_pending htrap] at h
    cases h
    exact .refl _ s
  | none =>
    cases hf : s.fetchOpcode with
    | ok w u =>
      rw [step_of_fetchOpcode_ok htrap hf] at h
      have hword := execWord_controlKeptUnless (execFetched_eq_next h)
      simp only [ControlKeptUnless, State.kernel, State.noteExecuted_devices, State.noteExecuted_params,
        State.noteExecuted_psw, State.noteExecuted_shadow, State.noteExecuted_spslot] at hword
      obtain ⟨l, rfl⟩ := fetchOpcode_ok hf
      exact ControlKeptUnless.imp hword fun hw => ⟨w, _, rfl, hw⟩
    | trapped u =>
      rw [step_of_fetchOpcode_trapped htrap hf] at h
      cases h
      obtain ⟨l, k, rfl⟩ := fetchOpcode_trapped hf
      exact .refl _ s
    | stuck f =>
      rw [step_of_fetchOpcode_stuck htrap hf] at h
      cases h

end

/-- Settles O17: the exception of `step_controlKeptUnless` is what the hypothesis excludes, by the mode or by the word
fetched. -/
theorem controlChangesOnlyByReturn : Obligations.ControlChangesOnlyByReturn := by
  intro s t h
  obtain ⟨hdevices, hparams, hcontrol⟩ := step_controlKeptUnless h
  refine ⟨hdevices, hparams, fun hnot => hcontrol.resolve_right ?_⟩
  rintro ⟨hkernel, w, u, hf, hw⟩
  rcases hnot with hmode | hfetched
  · exact hmode hkernel
  · obtain ⟨hrti, hrtt⟩ := hfetched w u hf
    exact hw.elim hrti hrtt

/-! ## CCODE, HALT and WAIT -/

/-- The packed condition codes, with their four bits written out. -/
theorem CC.append_eq_toWord (n z v c : Bool) :
    (0b000000000000 : BitVec 12) ++ BitVec.ofBool n ++ BitVec.ofBool z ++ BitVec.ofBool v ++ BitVec.ofBool c =
      CC.toWord ⟨n, z, v, c⟩ := by
  revert n z v c
  decide

/-- Settles O43: the mask is the packed condition codes, and the masked update is the write of `ccode_eq_setCC`. -/
theorem ccodeResult : Obligations.CcodeResult := by
  intro set n z v c s m
  have hm : m = CC.toWord ⟨n, z, v, c⟩ := CC.append_eq_toWord n z v c
  rw [hm]
  exact ⟨rfl, congrArg Host.Outcome.next (ccode_eq_setCC s set n z v c)⟩

/-- Settles O44: HALT by the mode; WAIT raises its pseudo-trap in every mode. -/
theorem haltWaitResult : Obligations.HaltWaitResult :=
  fun _ => ⟨exec_halt_of_kernel, exec_halt_of_not_kernel, rfl⟩

/-! ## The pops of RTI and RTT -/

section
variable {s u w : State} {v : Word}

theorem popPc_of_memRead_ok (h : s.memRead (s.x .sp) .word = .ok v u) :
    s.popPc = .ok () ((u.setX .pc v).setX .sp (s.x .sp + 2)) := by
  rw [State.popPc, ← State.x_sp, h, ← memRead_ok_x h .sp]
  rfl

theorem popPc_of_memRead_trapped (h : s.memRead (s.x .sp) .word = .trapped w) : s.popPc = .trapped w := by
  rw [State.popPc, ← State.x_sp, h]
  rfl

theorem popPsw_of_memRead_ok (h : s.memRead (s.x .sp) .word = .ok v u) :
    s.popPsw = .ok () ((u.setX .sp (s.x .sp + 2)).writePSW v) := by
  rw [State.popPsw, ← State.x_sp, h, ← memRead_ok_x h .sp]
  rfl

theorem popPsw_of_memRead_trapped (h : s.memRead (s.x .sp) .word = .trapped w) : s.popPsw = .trapped w := by
  rw [State.popPsw, ← State.x_sp, h]
  rfl

theorem memRead_ok_psw {a : Word} {sz : Size} (h : s.memRead a sz = .ok v u) : u.psw = s.psw := by
  obtain ⟨l, rfl⟩ := memRead_ok h
  rfl

theorem memRead_trapped_psw {a : Word} {sz : Size} (h : s.memRead a sz = .trapped w) : w.psw = s.psw := by
  obtain ⟨l, k, rfl⟩ := memRead_trapped h
  rfl

/-- The first pop's trap ends the instruction. -/
theorem exec_rti_of_popPc_trapped (hk : s.kernel) (h : s.popPc = .trapped w) : exec .rti s = .next w := by
  rw [exec_rti_of_kernel hk, State.returnFromTrap, h]
  rfl

/-- After the first pop comes the second. -/
theorem exec_rti_of_popPc_ok (hk : s.kernel) (h : s.popPc = .ok () u) : exec .rti s = u.popPsw.outcome := by
  rw [exec_rti_of_kernel hk, State.returnFromTrap, h]
  rfl

end

/-- RTI and RTT have one meaning (R185). -/
theorem exec_eq_exec_rti_of_mem {i : Instr} (hi : i ∈ [Instr.rti, .rtt]) (s : State) : exec i s = exec .rti s := by
  rcases List.mem_pair.mp hi with rfl | rfl
  · rfl
  · exact exec_rtt_eq_exec_rti s

/-- Settles O45: the mode, then each pop by its read; a read that traps changes no register and not the PSW. -/
theorem returnFromTrapResult : Obligations.ReturnFromTrapResult := by
  intro i hi s
  rw [exec_eq_exec_rti_of_mem hi s]
  refine ⟨exec_rti_of_not_kernel, fun hk => ⟨fun w hw => ?_, fun target s1 hread => ?_⟩⟩
  · exact ⟨exec_rti_of_popPc_trapped hk (popPc_of_memRead_trapped hw), memRead_trapped_psw hw, memRead_trapped_x hw⟩
  intro s2
  have hsp : s2.x .sp = s.x .sp + 2 := State.setX_x_same _ .sp _
  have hpsw : s2.psw = s.psw := show s1.psw = s.psw from memRead_ok_psw hread
  have hexec : exec .rti s = s2.popPsw.outcome := exec_rti_of_popPc_ok hk (popPc_of_memRead_ok hread)
  rw [← hsp]
  refine ⟨fun w hw => ⟨?_, memRead_trapped_x hw .pc, memRead_trapped_x hw .sp, (memRead_trapped_psw hw).trans hpsw⟩,
    fun v s3 hv => ?_⟩
  · rw [hexec, popPsw_of_memRead_trapped hw]
    rfl
  · have hfour : s2.x .sp + 2 = s.x .sp + 4 := by rw [hsp, BitVec.add_assoc]; rfl
    rw [hexec, popPsw_of_memRead_ok hv, hfour]
    rfl

end Sys2Proof.Machine

/-! PROOFS. Traps and privilege (60_exceptions.md R193 to R204): the cause of every trap that a step raises, what an
instruction makes of the control state, the vector table, and what a pending trap stops. -/

namespace Sys2Proof.Machine

/-! ## The cause of a trap (60_exceptions.md R193) -/

/-- A record of a step from `s` with its cause in the table of R193, raised while the latch held the opcode `op`. -/
def TrapRecord.ExplainedBy (s : State) (op : Option Word) (r : TrapRecord) : Prop :=
  TrapCause s r ∧ r.instAddr = s.pc ∧ r.vector = vectorOf r.kind ∧ r.opcode = op

/-- A state inside a step from `s`: the address space is that of `s`, the latch names this step's instruction, and a
record there may be is explained. -/
def TrapsExplained (s : State) (op : Option Word) (t : State) : Prop :=
  t.params = s.params ∧ t.devices = s.devices ∧ t.latch = { instAddr := s.pc, opcode := op } ∧
    ∀ r, t.trap = some r → r.ExplainedBy s op

section
variable {s t u : State} {op : Option Word}

theorem TrapsExplained.inCore_iff (h : TrapsExplained s op t) (a : Word) : t.inCore a ↔ s.inCore a := by
  obtain ⟨hparams, -⟩ := h
  rw [State.inCore, hparams]

theorem TrapsExplained.deviceLookup_eq (h : TrapsExplained s op t) (a : Word) :
    t.deviceLookup a = s.deviceLookup a := by
  obtain ⟨-, hdevices, -⟩ := h
  rw [State.deviceLookup, hdevices, State.deviceLookup]

/-- A trap raised inside the step is explained when its kind and its fault address have a cause. -/
theorem TrapsExplained.raise (h : TrapsExplained s op t) {k : TrapKind} {a : Option Word}
    (hcause : TrapCause s ⟨k, vectorOf k, s.pc, op, a⟩) : TrapsExplained s op (t.raise k a) := by
  obtain ⟨hparams, hdevices, hlatch, -⟩ := h
  refine ⟨hparams, hdevices, hlatch, fun r hr => ?_⟩
  rw [State.raise_trap, hlatch] at hr
  cases hr
  exact ⟨hcause, rfl, rfl, rfl⟩

/-- Every fault kind has a device's answer among its causes (20_memory.md R54). -/
theorem trapCause_of_reachesDevice {a : Word} (h : s.reachesDevice a) (k : FaultKind) (v : Option Word) (pc : Word) :
    TrapCause s ⟨.fault k, v, pc, op, some a⟩ := by
  cases k with
  | oddAddress => exact ⟨a, rfl, .inr h⟩
  | nonexistentAddress => exact ⟨a, rfl, .inr h⟩
  | illegalInstruction => exact .inr ⟨a, rfl, h⟩
  | reservedInstruction => exact ⟨a, rfl, h⟩

/-- The updates of an instruction raise no trap but those of the access controller, each with its cause. -/
theorem trapsExplained_closed (s : State) (op : Option Word) :
    Closed (fun _ => True) (fun _ _ => True) (fun _ _ => True) True (TrapsExplained s op) where
  setX _ _ _ _ h := by simpa [TrapsExplained] using h
  setCC _ _ _ h := h
  raiseOdd _ a ha h := h.raise ⟨a, rfl, .inl ha⟩
  raiseNone _ a hc hb h := h.raise ⟨a, rfl, .inl ⟨mt (h.inCore_iff a).mpr hc, h.deviceLookup_eq a ▸ hb⟩⟩
  raiseDevice _ k a b hc hb h :=
    h.raise (trapCause_of_reachesDevice ⟨mt (h.inCore_iff a).mpr hc, b, h.deviceLookup_eq a ▸ hb⟩ k _ _)
  logCall _ _ _ _ _ _ _ h := h
  coreWrite _ _ _ _ _ _ _ h := by simpa [TrapsExplained] using h
  noteStore _ _ h := by simpa [TrapsExplained] using h
  stuck _ _ _ _ _ _ := trivial

theorem TrapsExplained.raiseIllegal {w : Word} (h : TrapsExplained s (some w) t) (hw : IllegalHere s w) :
    TrapsExplained s (some w) t.raiseIllegal :=
  h.raise (.inl ⟨rfl, w, rfl, hw⟩)

theorem TrapsExplained.writePSW (h : TrapsExplained s op t) (v : Word) : TrapsExplained s op (t.writePSW v) := by
  simpa [TrapsExplained] using h

/-- The pops of RTI and RTT trap in their reads only (46_system.md R184). -/
theorem returnFromTrap_trapsExplained (h : TrapsExplained s op t) :
    t.returnFromTrap.All True (TrapsExplained s op) := by
  have hclosed := trapsExplained_closed s op
  have hpc : t.popPc.All True (TrapsExplained s op) := Res.All_bind (memRead_all hclosed _ _ h) fun w u _ hu =>
    hclosed.setX _ .sp (u.sp + 2) trivial (hclosed.setX u .pc w trivial hu)
  exact Res.All_bind hpc fun _ u _ hu => Res.All_bind (memRead_all hclosed _ _ hu) fun v u _ hu =>
    TrapsExplained.writePSW (hclosed.setX u .sp (u.sp + 2) trivial hu) v

/-- HALT, RTI and RTT are illegal outside kernel mode (60_exceptions.md R204). -/
theorem TrapsExplained.raiseIllegal_of_not_kernel {w : Word} {i : Instr} (h : TrapsExplained s (some w) t)
    (hw : decode w = .ok i) (hi : i = .halt ∨ i = .rti ∨ i = .rtt) (hk : ¬ s.kernel) :
    TrapsExplained s (some w) t.raiseIllegal :=
  h.raiseIllegal (.inr ⟨i, hw, .inr (.inr ⟨hi, hk⟩)⟩)

/-- HALT raises one trap in either mode, each with its cause. -/
theorem exec_halt_trapsExplained {w : Word} (hw : decode w = .ok .halt) (hkernel : u.kernel ↔ s.kernel)
    (hu : TrapsExplained s (some w) u) (h : exec .halt u = .next t) : TrapsExplained s (some w) t := by
  by_cases hk : u.kernel
  · cases (exec_halt_of_kernel hk).symm.trans h
    have hword : encode .halt = w := encodeDecodeAgree w .halt hw
    exact hu.raise ⟨rfl, congrArg some hword.symm, hkernel.mp hk⟩
  · cases (exec_halt_of_not_kernel hk).symm.trans h
    exact hu.raiseIllegal_of_not_kernel hw (.inl rfl) (mt hkernel.mpr hk)

/-- RTI and RTT, which are one operation, trap in a pop or by the mode. -/
theorem exec_rti_trapsExplained {w : Word} {i : Instr} (hw : decode w = .ok i) (hi : i = .rti ∨ i = .rtt)
    (hkernel : u.kernel ↔ s.kernel) (hu : TrapsExplained s (some w) u) (h : exec .rti u = .next t) :
    TrapsExplained s (some w) t := by
  by_cases hk : u.kernel
  · rw [exec_rti_of_kernel hk] at h
    exact Res.All_outcome (returnFromTrap_trapsExplained hu) h
  · cases (exec_rti_of_not_kernel hk).symm.trans h
    exact hu.raiseIllegal_of_not_kernel hw (.inr hi) (mt hkernel.mpr hk)

/-- An instruction traps for a cause of the table: the access controller's traps by `exec_all`, and the traps that the
instruction raises itself by its word and the mode. -/
theorem exec_trapsExplained {w : Word} {i : Instr} (hw : decode w = .ok i) (hkernel : u.kernel ↔ s.kernel)
    (hu : TrapsExplained s (some w) u) (h : exec i u = .next t) : TrapsExplained s (some w) t := by
  by_cases hhalt : i = .halt
  · subst hhalt
    exact exec_halt_trapsExplained hw hkernel hu h
  by_cases hwait : i = .wait
  · subst hwait
    cases h
    have hword : encode .wait = w := encodeDecodeAgree w .wait hw
    exact hu.raise ⟨rfl, congrArg some hword.symm⟩
  by_cases hrti : i = .rti
  · exact exec_rti_trapsExplained hw (.inl hrti) hkernel hu (hrti ▸ h)
  by_cases hrtt : i = .rtt
  · exact exec_rti_trapsExplained hw (.inr hrtt) hkernel hu (exec_rtt_eq_exec_rti u ▸ hrtt ▸ h)
  have hillegal (v : State) (hform : i.isStub = true ∨ i.wellFormed = false) (hv : TrapsExplained s (some w) v) :
      TrapsExplained s (some w) v.raiseIllegal :=
    hv.raiseIllegal (.inr ⟨i, hw, hform.imp_right .inl⟩)
  obtain ⟨r, he, hr⟩ := exec_all (trapsExplained_closed s (some w)) hillegal hhalt hwait hrti hrtt hu
  exact Res.All_outcome hr (he ▸ h)

theorem execWord_trapsExplained {w : Word} (hkernel : u.kernel ↔ s.kernel) (hu : TrapsExplained s (some w) u)
    (h : execWord w u = .next t) : TrapsExplained s (some w) t := by
  by_cases hw : UnknownWord w
  · cases (execWord_of_unknownWord u hw).symm.trans h
    exact hu.raiseIllegal (.inl hw)
  · obtain ⟨-, hdecodes, -⟩ := unknownWordsTrap
    obtain ⟨i, hi⟩ := (hdecodes w).mpr hw
    exact exec_trapsExplained hi hkernel hu (execWord_of_decode_ok u hi ▸ h)

/-- The fetched instruction starts in a state with nothing to explain, whose latch holds its word. -/
theorem execFetched_trapsExplained {w : Word} (htrap : s.trap = none) (hf : s.fetchOpcode = .ok w u)
    (h : execFetched w u = .next t) : TrapsExplained s (some w) t := by
  obtain ⟨l, rfl⟩ := fetchOpcode_ok hf
  refine execWord_trapsExplained (by simp [State.kernel]) ?_ (execFetched_eq_next h)
  simp [TrapsExplained, htrap]

/-- The opcode fetch traps in the access controller, with no opcode in the latch (60_exceptions.md R198). -/
theorem fetchOpcode_trapsExplained (htrap : s.trap = none) (hf : s.fetchOpcode = .trapped t) :
    TrapsExplained s none t := by
  have hstart : TrapsExplained s none { s with latch := { instAddr := s.pc, opcode := none } } :=
    ⟨rfl, rfl, rfl, fun r hr => by simp [htrap] at hr⟩
  obtain hfetch | ⟨w, u, -, hk⟩ := Res.bind_eq_trapped hf
  · exact Res.All_of_trapped (fetch_all (trapsExplained_closed s none) trivial hstart) hfetch
  · cases hk

end

/-- Settles O15: the opcode fetch traps with no opcode latched, the fetched instruction with its word latched, and in
either case the record is explained. -/
theorem trapsHaveTheirCauses : Obligations.TrapsHaveTheirCauses := by
  intro s t r htrap hstep hr
  cases hf : s.fetchOpcode with
  | ok w u =>
    rw [step_of_fetchOpcode_ok htrap hf] at hstep
    obtain ⟨-, -, -, hexplained⟩ := execFetched_trapsExplained htrap hf hstep
    obtain ⟨hcause, haddr, hvector, hop⟩ := hexplained r hr
    refine ⟨hcause, haddr, hvector, fun hnone => ?_, fun v hv => ⟨u, ?_⟩⟩
    · cases hop.symm.trans hnone
    · cases hop.symm.trans hv
      rfl
  | trapped u =>
    cases (step_of_fetchOpcode_trapped htrap hf).symm.trans hstep
    obtain ⟨-, -, -, hexplained⟩ := fetchOpcode_trapsExplained htrap hf
    obtain ⟨hcause, haddr, hvector, hop⟩ := hexplained r hr
    refine ⟨hcause, haddr, hvector, fun _ => rfl, fun v hv => ?_⟩
    cases hop.symm.trans hv
  | stuck f => cases (step_of_fetchOpcode_stuck htrap hf).symm.trans hstep

/-! ## The control state decides nothing (60_exceptions.md R204; 10_state.md R30, R33, R34) -/

/-- The result with another state at its end. -/
def Res.mapState {α : Type} (f : State → State) : Res α → Res α
  | .ok v s => .ok v (f s)
  | .trapped s => .trapped (f s)
  | .stuck e => .stuck e

theorem Res.outcome_mapState (r : Res Unit) (f : State → State) : (r.mapState f).outcome = onNext f r.outcome := by
  cases r <;> rfl

theorem Res.bind_eq_mapState {α β : Type} {r r' : Res α} {k : α → State → Res β} {f : State → State}
    (hr : r' = r.mapState f) (hk : ∀ v t, k v (f t) = (k v t).mapState f) : r'.bind k = (r.bind k).mapState f := by
  subst hr
  cases r with
  | ok v t => exact hk v t
  | trapped t => rfl
  | stuck e => rfl

/-- An operation does the same with any other control state, and leaves it as it is. -/
def IgnoresControl {α : Type} (m : State → Res α) : Prop :=
  ∀ (p : Word) (b : Bank) (q : SpSlots) (s : State),
    m (s.withControl p b q) = (m s).mapState fun t => t.withControl p b q

theorem IgnoresControl.bind {α β : Type} {m : State → Res α} {k : α → State → Res β} (hm : IgnoresControl m)
    (hk : ∀ v, IgnoresControl (k v)) : IgnoresControl fun s => (m s).bind k :=
  fun p b q s => Res.bind_eq_mapState (hm p b q s) fun v t => hk v p b q t

theorem IgnoresControl.outcome {m : State → Res Unit} (h : IgnoresControl m) (p : Word) (b : Bank) (q : SpSlots)
    (s : State) : (m (s.withControl p b q)).outcome = onNext (fun t => t.withControl p b q) (m s).outcome := by
  rw [h p b q s, Res.outcome_mapState]

/-! ### The updates of an instruction -/

section
variable (p : Word) (b : Bank) (q : SpSlots) (s : State)

@[simp] theorem State.withControl_pc : (s.withControl p b q).pc = s.pc := rfl
@[simp] theorem State.withControl_params : (s.withControl p b q).params = s.params := rfl
@[simp] theorem State.withControl_deviceLog : (s.withControl p b q).deviceLog = s.deviceLog := rfl

@[simp] theorem State.withControl_x (r : Reg) : (s.withControl p b q).x r = s.x r := by cases r <;> rfl

@[simp] theorem State.withControl_cc : (s.withControl p b q).cc = s.cc := ccOf_join p s.cc

@[simp] theorem State.withControl_setX (r : Reg) (v : Word) :
    (s.withControl p b q).setX r v = (s.setX r v).withControl p b q := by cases r <;> rfl

/-- The condition codes are the part of the PSW that the control state leaves to the instruction. -/
@[simp] theorem State.withControl_setCC (cc : CC) :
    (s.withControl p b q).setCC cc = (s.setCC cc).withControl p b q := by
  have hcc : (s.setCC cc).withControl p b q = { s with psw := p, shadow := b, spslot := q }.setCC cc := by
    simp only [State.withControl, State.setCC_cc]
    rfl
  rw [hcc]
  exact State.setCC_setCC { s with psw := p, shadow := b, spslot := q } s.cc cc

@[simp] theorem State.withControl_noteStore (a : Word) :
    (s.withControl p b q).noteStore a = (s.noteStore a).withControl p b q := by
  rw [State.noteStore, State.noteStore, apply_ite (fun t : State => t.withControl p b q)]
  rfl

theorem State.withControl_coreWrite (a : Word) (sz : Size) (v : Word) :
    (s.withControl p b q).coreWrite a sz v = (s.coreWrite a sz v).withControl p b q := by cases sz <;> rfl

end

/-- An operation after a write of the condition codes. -/
theorem IgnoresControl.after_setCC {α : Type} {m : State → Res α} (h : IgnoresControl m) (g : CC → CC) :
    IgnoresControl fun s => m (s.setCC (g s.cc)) := by
  intro p b q s
  simp only [State.withControl_cc, State.withControl_setCC]
  exact h p b q _

/-! ### The access controller -/

theorem deviceLoad_ignoresControl (d : Binding) (a : Word) (sz : Size) :
    IgnoresControl fun s => s.deviceLoad d a sz := by
  intro p b q s
  simp only [State.deviceLoad, State.withControl_deviceLog]
  cases Config.deviceLoad s.deviceLog (callOf d .load a sz) <;> rfl

theorem deviceStore_ignoresControl (d : Binding) (a : Word) (sz : Size) (v : Word) :
    IgnoresControl fun s => s.deviceStore d a sz v := by
  intro p b q s
  simp only [State.deviceStore, State.withControl_deviceLog]
  cases Config.deviceStore s.deviceLog (callOf d (.store (bufferOf v sz)) a sz) with
  | done => exact congrArg (Res.ok ()) (State.withControl_noteStore p b q (s.logCall _) a)
  | trap k => rfl
  | never => rfl

theorem memRead_ignoresControl (a : Word) (sz : Size) : IgnoresControl fun s => s.memRead a sz := by
  intro p b q s
  by_cases hm : misaligned a sz
  · simp only [memRead_misaligned hm]
    rfl
  by_cases hc : s.inCore a
  · have hc' : (s.withControl p b q).inCore a := hc
    simp only [memRead_core hm hc, memRead_core hm hc']
    cases sz <;> rfl
  have hc' : ¬ (s.withControl p b q).inCore a := hc
  cases hb : s.deviceLookup a with
  | none =>
    simp only [memRead_unbound hm hc hb, memRead_unbound hm hc' hb]
    rfl
  | some d =>
    simp only [memRead_device hm hc hb, memRead_device hm hc' hb]
    exact deviceLoad_ignoresControl d a sz p b q s

theorem memWrite_ignoresControl (a : Word) (sz : Size) (v : Word) : IgnoresControl fun s => s.memWrite a sz v := by
  intro p b q s
  by_cases hm : misaligned a sz
  · simp only [memWrite_misaligned v hm]
    rfl
  by_cases hc : s.inCore a
  · have hc' : (s.withControl p b q).inCore a := hc
    simp only [memWrite_core hm hc, memWrite_core hm hc', State.withControl_coreWrite, State.withControl_noteStore]
    rfl
  have hc' : ¬ (s.withControl p b q).inCore a := hc
  cases hb : s.deviceLookup a with
  | none =>
    simp only [memWrite_unbound v hm hc hb, memWrite_unbound v hm hc' hb]
    rfl
  | some d =>
    simp only [memWrite_device v hm hc hb, memWrite_device v hm hc' hb]
    exact deviceStore_ignoresControl d a sz v p b q s

/-! ### Fetch, stack and operands -/

theorem fetch_ignoresControl : IgnoresControl State.fetch := fun p b q s =>
  Res.bind_eq_mapState (memRead_ignoresControl s.pc .word p b q s) fun _ _ => rfl

theorem push_ignoresControl (v : Word) : IgnoresControl fun s => s.push v := fun p b q s =>
  memWrite_ignoresControl (s.sp - 2) .word v p b q { s with sp := s.sp - 2 }

theorem resolve_ignoresControl (o : Operand) (sz : Size) : IgnoresControl (resolve o sz) := by
  obtain ⟨m, r⟩ := o
  intro p b q s
  cases m with
  | register => rfl
  | deferred =>
    simp only [resolve, State.withControl_x]
    rfl
  | autoInc | autoDec =>
    simp only [resolve, State.withControl_x, State.withControl_setX]
    rfl
  | autoIncDeferred =>
    simp only [resolve, State.withControl_x]
    refine Res.bind_eq_mapState (memRead_ignoresControl _ .word p b q s) fun a t => ?_
    simp only [State.withControl_x, State.withControl_setX]
    rfl
  | autoDecDeferred =>
    simp only [resolve, State.withControl_x, State.withControl_setX]
    exact Res.bind_eq_mapState (memRead_ignoresControl _ .word p b q _) fun _ _ => rfl
  | index =>
    refine Res.bind_eq_mapState (fetch_ignoresControl p b q s) fun d t => ?_
    simp only [State.withControl_x]
    rfl
  | indexDeferred =>
    refine Res.bind_eq_mapState (fetch_ignoresControl p b q s) fun d t => ?_
    simp only [State.withControl_x]
    exact Res.bind_eq_mapState (memRead_ignoresControl _ .word p b q t) fun _ _ => rfl

theorem readOp_ignoresControl (loc : Loc) (sz : Size) : IgnoresControl (readOp loc sz) := by
  cases loc with
  | reg r =>
    intro p b q s
    simp only [readOp, State.withControl_x]
    rfl
  | mem a => exact memRead_ignoresControl a sz

theorem writeOp_ignoresControl (loc : Loc) (sz : Size) (v : Word) : IgnoresControl (writeOp loc sz v) := by
  cases loc with
  | reg r =>
    intro p b q s
    simp only [writeOp, State.withControl_x, State.withControl_setX]
    rfl
  | mem a => exact memWrite_ignoresControl a sz v

theorem writeMovb_ignoresControl (loc : Loc) (v : Word) : IgnoresControl (writeMovb loc v) := by
  cases loc with
  | reg r =>
    intro p b q s
    simp only [writeMovb, State.withControl_setX]
    rfl
  | mem a => exact memWrite_ignoresControl a .byte v

theorem readOperand_ignoresControl (o : Operand) (sz : Size) : IgnoresControl (readOperand o sz) :=
  (resolve_ignoresControl o sz).bind fun loc => readOp_ignoresControl loc sz

theorem oneOperand_ignoresControl (sz : Size) (o : Operand) : IgnoresControl (oneOperand sz o) :=
  (resolve_ignoresControl o sz).bind fun loc => (readOp_ignoresControl loc sz).bind fun _ _ _ _ _ => rfl

theorem twoOperands_ignoresControl (sz : Size) (src dst : Operand) : IgnoresControl (twoOperands sz src dst) := by
  intro p b q s
  simp only [twoOperands, State.withControl_params]
  cases s.params.operandOrder with
  | srcFirst =>
    exact (readOperand_ignoresControl src sz).bind
      (fun _ => (oneOperand_ignoresControl sz dst).bind fun _ _ _ _ _ => rfl) p b q s
  | resolveBothFirst =>
    exact (resolve_ignoresControl src sz).bind (fun sloc => (resolve_ignoresControl dst sz).bind fun dloc =>
      (readOp_ignoresControl sloc sz).bind fun _ => (readOp_ignoresControl dloc sz).bind fun _ _ _ _ _ => rfl) p b q s

/-- The end of an operation that only writes the condition codes. -/
theorem ok_setCC_ignoresControl {α : Type} (v : α) (g : CC → CC) :
    IgnoresControl fun s => .ok v (s.setCC (g s.cc)) :=
  IgnoresControl.after_setCC (m := .ok v) (fun _ _ _ _ => rfl) g

theorem moveOperands_ignoresControl (sz : Size) (src dst : Operand) (flags : Word → CC → CC) :
    IgnoresControl (moveOperands sz src dst flags) := by
  intro p b q s
  simp only [moveOperands, State.withControl_params]
  cases s.params.operandOrder with
  | srcFirst =>
    exact (readOperand_ignoresControl src sz).bind (fun v => IgnoresControl.after_setCC
      ((resolve_ignoresControl dst sz).bind fun _ _ _ _ _ => rfl) (flags v)) p b q s
  | resolveBothFirst =>
    exact (resolve_ignoresControl src sz).bind (fun sloc => (resolve_ignoresControl dst sz).bind fun dloc =>
      (readOp_ignoresControl sloc sz).bind fun v => ok_setCC_ignoresControl (v, dloc) (flags v)) p b q s

/-! ### The families of instructions -/

theorem modifyTwo_ignoresControl (sz : Size) (src dst : Operand) (f : Word → Word → Word)
    (g : Word → Word → CC → CC) : IgnoresControl (modifyTwo sz src dst f g) :=
  (twoOperands_ignoresControl sz src dst).bind fun (v, d, loc) =>
    (writeOp_ignoresControl loc sz (f v d)).after_setCC (g v d)

theorem testTwo_ignoresControl (sz : Size) (src dst : Operand) (g : Word → Word → CC → CC) :
    IgnoresControl (testTwo sz src dst g) :=
  (twoOperands_ignoresControl sz src dst).bind fun (v, d, _) => ok_setCC_ignoresControl () (g v d)

theorem modifyOne_ignoresControl (sz : Size) (dst : Operand) (f : Word → Word) (g : Word → CC → CC) :
    IgnoresControl (modifyOne sz dst f g) :=
  (oneOperand_ignoresControl sz dst).bind fun (d, loc) => (writeOp_ignoresControl loc sz (f d)).after_setCC (g d)

theorem testOne_ignoresControl (sz : Size) (dst : Operand) (g : Word → CC → CC) :
    IgnoresControl (testOne sz dst g) :=
  (oneOperand_ignoresControl sz dst).bind fun (d, _) => ok_setCC_ignoresControl () (g d)

theorem clearOne_ignoresControl (sz : Size) (dst : Operand) (cc : CC) : IgnoresControl (clearOne sz dst cc) :=
  ((resolve_ignoresControl dst sz).bind fun loc => writeOp_ignoresControl loc sz 0).after_setCC fun _ => cc

/-- What R155 to R169 branch on are the condition codes. -/
theorem branchIf_withControl (taken : CC → Bool) (off : BitVec 8) (p : Word) (b : Bank) (q : SpSlots) (s : State) :
    branchIf (taken (s.withControl p b q).cc) off (s.withControl p b q) =
      onNext (fun t => t.withControl p b q) (branchIf (taken s.cc) off s) := by
  rw [State.withControl_cc]
  cases taken s.cc <;> rfl

theorem State.withControl_setProduct (p : Word) (b : Bank) (q : SpSlots) (s : State) (r : Reg) (n : Int) :
    (s.withControl p b q).setProduct r n = (s.setProduct r n).withControl p b q := by
  unfold State.setProduct
  cases pairOf r <;> simp only [State.withControl_setX]

/-- An instruction has the same outcome with any other control state, and leaves it as it is. -/
def InstrIgnoresControl (i : Instr) : Prop :=
  ∀ (p : Word) (b : Bank) (q : SpSlots) (s : State),
    exec i (s.withControl p b q) = onNext (fun t => t.withControl p b q) (exec i s)

theorem exec_move_ignoresControl (sz : Size) (src dst : Operand) : InstrIgnoresControl (moveOf src dst sz) := by
  intro p b q s
  cases sz with
  | word =>
    exact ((moveOperands_ignoresControl .word src dst _).bind fun (v, loc) =>
      writeOp_ignoresControl loc .word v).outcome p b q s
  | byte =>
    exact ((moveOperands_ignoresControl .byte src dst _).bind fun (v, loc) =>
      writeMovb_ignoresControl loc v).outcome p b q s

theorem exec_jsr_ignoresControl (r : Reg) (dst : Operand) : InstrIgnoresControl (.jsr r dst) := by
  refine IgnoresControl.outcome ((resolve_ignoresControl dst .word).bind fun loc p b q s => ?_)
  cases loc with
  | reg _ => rfl
  | mem ea =>
    simp only [State.withControl_x]
    refine Res.bind_eq_mapState (push_ignoresControl _ p b q s) fun _ t => ?_
    simp only [State.withControl_pc, State.withControl_setX]
    rfl

theorem exec_rts_ignoresControl (r : Reg) : InstrIgnoresControl (.rts r) := by
  intro p b q s
  show (Res.bind _ _).outcome = onNext _ (Res.bind _ _).outcome
  rw [← Res.outcome_mapState]
  refine congrArg Res.outcome (Res.bind_eq_mapState (memRead_ignoresControl s.sp .word p b q s) fun w t => ?_)
  simp only [State.withControl_x]
  exact congrArg (Res.ok ()) (State.withControl_setX p b q { t with pc := t.x r, sp := t.sp + 2 } r w)

theorem exec_ash_ignoresControl (r : Reg) (src : Operand) : InstrIgnoresControl (.ash r src) := by
  refine IgnoresControl.outcome ((readOperand_ignoresControl src .word).bind fun v p b q s => ?_)
  simp only [State.withControl_x, State.withControl_setCC, State.withControl_setX]
  rfl

theorem exec_mul_ignoresControl (r : Reg) (src : Operand) : InstrIgnoresControl (.mul r src) := by
  refine IgnoresControl.outcome ((readOperand_ignoresControl src .word).bind fun v p b q s => ?_)
  simp only [State.withControl_x, State.withControl_params, State.withControl_setCC, State.withControl_setProduct]
  rfl

/-- CCODE writes condition codes that depend on the old ones only (46_system.md R181). -/
theorem exec_ccode_ignoresControl (set n z v c : Bool) : InstrIgnoresControl (.ccode set n z v c) := by
  intro p b q s
  show Host.Outcome.next _ = Host.Outcome.next _
  rw [ccode_eq_setCC, ccode_eq_setCC, State.withControl_cc, State.withControl_setCC]

/-- Only the privilege checks and WritePSW read the control state: a stub raises its trap in every mode, and every other
instruction is made of operations that ignore it. -/
theorem exec_ignoresControl {i : Instr} (hhalt : i ≠ .halt) (hrti : i ≠ .rti) (hrtt : i ≠ .rtt) :
    InstrIgnoresControl i := by
  by_cases hstub : i.isStub = true
  · intro p b q s
    rw [exec_of_isStub hstub, exec_of_isStub hstub]
    rfl
  cases i with
  | halt => exact absurd rfl hhalt
  | rti => exact absurd rfl hrti
  | rtt => exact absurd rfl hrtt
  | wait => exact fun _ _ _ _ => rfl
  | mov src dst => exact exec_move_ignoresControl .word src dst
  | movb src dst => exact exec_move_ignoresControl .byte src dst
  | bic src dst | bicb src dst | bis src dst | bisb src dst | add src dst | sub src dst =>
    exact (modifyTwo_ignoresControl _ src dst _ _).outcome
  | cmp src dst | cmpb src dst | bit src dst | bitb src dst => exact (testTwo_ignoresControl _ src dst _).outcome
  | com dst | comb dst | inc dst | incb dst | dec dst | decb dst =>
    exact (modifyOne_ignoresControl _ dst _ _).outcome
  | tst dst | tstb dst => exact (testOne_ignoresControl _ dst _).outcome
  | clr dst | clrb dst => exact (clearOne_ignoresControl _ dst _).outcome
  | br off => exact branchIf_withControl (fun _ => true) off
  | bne off => exact branchIf_withControl (fun cc => !cc.z) off
  | beq off => exact branchIf_withControl CC.z off
  | bge off => exact branchIf_withControl (fun cc => !cc.less) off
  | blt off => exact branchIf_withControl CC.less off
  | bgt off => exact branchIf_withControl (fun cc => !cc.lessEqual) off
  | ble off => exact branchIf_withControl CC.lessEqual off
  | bpl off => exact branchIf_withControl (fun cc => !cc.n) off
  | bmi off => exact branchIf_withControl CC.n off
  | bhi off => exact branchIf_withControl (fun cc => !cc.lowerSame) off
  | blos off => exact branchIf_withControl CC.lowerSame off
  | bvc off => exact branchIf_withControl (fun cc => !cc.v) off
  | bvs off => exact branchIf_withControl CC.v off
  | bcc off => exact branchIf_withControl (fun cc => !cc.c) off
  | bcs off => exact branchIf_withControl CC.c off
  | jsr r dst => exact exec_jsr_ignoresControl r dst
  | rts r => exact exec_rts_ignoresControl r
  | ash r src => exact exec_ash_ignoresControl r src
  | mul r src => exact exec_mul_ignoresControl r src
  | ccode set n z v c => exact exec_ccode_ignoresControl set n z v c
  | _ => exact absurd rfl hstub

/-- Settles O16: every operation behind such an instruction ignores the control state. -/
theorem onlyThreeModeChecks : Obligations.OnlyThreeModeChecks :=
  fun _ s p b q hhalt hrti hrtt => exec_ignoresControl hhalt hrti hrtt p b q s

/-! ## Every instruction answers (60_exceptions.md R197, R199) -/

/-- With no device bound the lookup finds nothing, so no access waits for an answer. -/
theorem no_devices_stepClosed : StepClosed False fun t => t.devices = [] :=
  { devices_stepClosed [] with
    stuck := fun s a b _ hb h => by
      rw [State.deviceLookup, h] at hb
      cases hb }

theorem execWord_answers (w : Word) {s : State} (h : s.devices = []) : ∃ t, execWord w s = .next t := by
  obtain ⟨r, he, hr⟩ := execWord_keeps no_devices_stepClosed w h
  obtain ⟨t, ht, -⟩ := Res.All_next hr
  exact ⟨t, he.trans ht⟩

/-- An instruction does what its own encoding does, so what holds of every word holds of it. -/
theorem execWord_encode (i : Instr) (s : State) : execWord (encode i) s = exec i s :=
  execWord_of_decode_ok s (decode_encode i)

theorem exec_answers (i : Instr) {s : State} (h : s.devices = []) : ∃ t, exec i s = .next t :=
  execWord_encode i s ▸ execWord_answers (encode i) h

theorem exec_ne_refused (i : Instr) (s : State) (r : Refusal) : exec i s ≠ .refused r :=
  execWord_encode i s ▸ execWord_ne_refused (encode i) s r

theorem step_answers {s : State} (hdevices : s.devices = []) (hoff : s.params.tcache = false) :
    ∃ t, step s = .next t := by
  cases htrap : s.trap with
  | some r => exact ⟨s, step_of_pending htrap⟩
  | none =>
    have hfetch := fetchOpcode_keeps no_devices_stepClosed hdevices
    cases hf : s.fetchOpcode with
    | ok w u =>
      have hu : u.devices = [] := Res.All_of_ok hfetch hf
      have huoff : u.params.tcache = false := by
        obtain ⟨l, rfl⟩ := fetchOpcode_ok hf
        exact hoff
      rw [step_of_fetchOpcode_ok htrap hf, execFetched_of_not_stale (u.not_stale_of_off _ huoff)]
      exact execWord_answers w ((u.noteExecuted_devices _).trans hu)
    | trapped u => exact ⟨u, step_of_fetchOpcode_trapped htrap hf⟩
    | stuck f =>
      rw [hf] at hfetch
      exact hfetch.elim

/-- Settles O18: with no device bound nothing that a step runs can be stuck, and only a stale word is refused. -/
theorem everyInstructionAnswers : Obligations.EveryInstructionAnswers :=
  ⟨fun i _ h => exec_answers i h, exec_ne_refused, fun _ hdevices hoff => step_answers hdevices hoff⟩

/-! ## A pending trap (60_exceptions.md R199 to R201) -/

theorem run_of_pending {s : State} {r : TrapRecord} (h : s.trap = some r) (fuel : Nat) : run fuel s = .trapped s := by
  have hpending : s.trapped = true := by rw [State.trapped, h]; rfl
  cases fuel with
  | zero => exact if_pos hpending
  | succ n => exact if_pos hpending

/-- Settles O8: the step by its first case, and a run by its first test, whatever its fuel. -/
theorem pendingTrapStopsExecution : Obligations.PendingTrapStopsExecution :=
  fun _ _ h => ⟨step_of_pending h, run_of_pending h, h⟩

/-- Settles O14: `raise` is one record update, and a trapped result ends every bind. -/
theorem raiseWritesRecordOnly : Obligations.RaiseWritesRecordOnly :=
  ⟨fun s k a => ⟨s.raise_trap k a, rfl⟩, fun s later => ⟨Res.bind_trapped s later, Res.outcome_trapped s⟩⟩

/-! ## The vectors (60_exceptions.md R196) -/

/-- The OPEN vector skips the three fixed ones. -/
theorem vecReserved_ne : vecReserved ≠ 0o000004 ∧ vecReserved ≠ 0o000010 ∧ vecReserved ≠ 0o000250 := by
  have hlt := Config.vecReservedIndex.isLt
  simp only [vecReserved, ne_eq, ← BitVec.toNat_inj, BitVec.toNat_ofNat, BitVec.reduceToNat]
  split
  · omega
  split
  · omega
  split <;> omega

/-- The fault kind that has a vector. -/
def faultOfVector (v : Word) : FaultKind :=
  if v = 0o000004 then .oddAddress
  else if v = 0o000010 then .illegalInstruction
  else if v = 0o000250 then .nonexistentAddress
  else .reservedInstruction

/-- The vector of a kind determines the kind: `faultOfVector` takes it back. -/
theorem eq_faultOfVector_of_vectorOf {k : TrapKind} {v : Word} (h : vectorOf k = some v) :
    k = .fault (faultOfVector v) := by
  cases k with
  | fault f =>
    cases f with
    | oddAddress | illegalInstruction | nonexistentAddress => cases h; rfl
    | reservedInstruction =>
      cases h
      obtain ⟨hodd, hillegal, hnone⟩ := vecReserved_ne
      rw [faultOfVector, if_neg hodd, if_neg hillegal, if_neg hnone]
  | halt => cases h
  | wait => cases h

/-- Settles O13: the table row by row; it is one-to-one, for `faultOfVector` is its inverse. -/
theorem vectorsAreOneToOne : Obligations.VectorsAreOneToOne :=
  ⟨rfl, rfl, rfl, ⟨vecReserved, rfl, vecReserved_ne⟩, rfl, rfl,
    fun _ _ _ hk hl => (eq_faultOfVector_of_vectorOf hk).trans (eq_faultOfVector_of_vectorOf hl).symm,
    rfl, rfl, rfl, rfl, rfl, rfl⟩

end Sys2Proof.Machine

/-! PROOFS. The instruction cycle as the fetch rules write it, and the state after reset (70_reset_and_hazards.md R211,
R214; 20_memory.md R47, R56). -/

namespace Sys2Proof.Machine

/-! ## The opcode fetch from core memory -/

theorem fetch_core {s : State} (heven : s.pc.getLsbD 0 = false) (hc : s.inCore s.pc) :
    s.fetch = .ok (s.coreRead s.pc .word) (s.setX .pc (s.pc + 2)) :=
  fetch_of_memRead_ok (memRead_core (not_misaligned_of_even fun _ => heven) hc)

/-- The opcode fetch at an even `pc` in core memory: the word there, low byte first (20_memory.md R47, R56). -/
theorem fetchOpcode_core {s : State} (heven : s.pc.getLsbD 0 = false) (hc : s.inCore s.pc) :
    s.fetchOpcode = .ok (s.coreRead s.pc .word)
      { s with pc := s.pc + 2, latch := { instAddr := s.pc, opcode := some (s.coreRead s.pc .word) } } := by
  rw [State.fetchOpcode, fetch_core (s := { s with latch := { instAddr := s.pc, opcode := none } }) heven hc]
  rfl

theorem State.noteExecuted_of_off (s : State) (a : Word) (h : s.params.tcache = false) : s.noteExecuted a = s :=
  if_neg fun hon => by simp [h] at hon

/-- A step runs the instruction that its opcode fetch decodes to (70_reset_and_hazards.md R214). -/
theorem step_eq_exec {s u : State} {w : Word} {i : Instr} (htrap : s.trap = none) (hstale : ¬ s.stale s.pc)
    (hf : s.fetchOpcode = .ok w u) (hw : decode w = .ok i) : step s = exec i (u.noteExecuted s.pc) :=
  (step_eq_execWord htrap hstale hf).1.trans (execWord_of_decode_ok _ hw)

/-- Settles O6: the step past its opcode fetch, and the fetch from core memory written out. -/
theorem stepRunsDecoded : Obligations.StepRunsDecoded :=
  ⟨fun _ _ _ _ htrap hstale hf hw => step_eq_exec htrap hstale hf hw,
    fun _ _ htrap hstale heven hc hw => step_eq_exec htrap hstale (fetchOpcode_core heven hc) hw,
    State.noteExecuted_of_off⟩

/-! ## The state after reset -/

theorem State.reset_x (r : Reg) : State.reset.x r = 0 := by cases r <;> rfl

theorem SpSlots.zero_get (m : BitVec 2) : SpSlots.zero.get m = 0 := by
  unfold SpSlots.get
  split <;> rfl

/-- Settles O10: creation sets each field, with core memory the empty list; `reset` is creation with the zero
registers, and RESET is a stub. -/
theorem resetStateIsZero : Obligations.ResetStateIsZero :=
  ⟨State.reset_x, rfl, SpSlots.zero_get, by decide, rfl, fun _ => rfl, by decide, by decide, by decide,
    fun _ _ _ => ⟨rfl, rfl, rfl, rfl, rfl, rfl, rfl, fun _ => rfl, rfl, rfl⟩, exec_of_isStub (i := .reset) rfl⟩

end Sys2Proof.Machine
